-- ==== Sys2Proof/Word.lean ====
section
/-! DEFINITION. The word types of the Base45 CORE (spec 00_scope.md R6, R7; 30_encoding.md R70). -/

namespace Sys2Proof

/-- A stream unit: a byte, or an 8-bit character code (R7, R57). -/
abbrev Byte := BitVec 8

/-- A command word, as the `cmd` port carries it (R70, R71). -/
abbrev Word := BitVec 16

/-- A length operand or a value result: `LEN_W` = 32 bits (R6, R70). -/
abbrev Length := BitVec 32

/-- A register of the decoder's value buffer: 6 bits, holding an alphabet value (R20). -/
abbrev Value := BitVec 6

end Sys2Proof
end

