-- ==== Sys2Proof/Syntax.lean ====
section
/-! DEFINITION. The ten commands of the CORE, one constructor per row of spec/opcode_table.json (30_encoding.md R72). -/

namespace Sys2Proof

/-- A command with its `data` operand (R72, R73). The length operand of the size commands is the `len_in` port, not part
of the command word. -/
inductive Instr where
  /-- ROM_VALUE_OF c (R103). -/
  | romValueOf (c : Byte)
  /-- ROM_CHAR_OF v (R104). -/
  | romCharOf (v : Byte)
  /-- ENC_RESET (R120). -/
  | encReset
  /-- ENC_CONSUME b (R121). -/
  | encConsume (b : Byte)
  /-- ENC_FINALIZE (R122). -/
  | encFinalize
  /-- DEC_RESET (R140). -/
  | decReset
  /-- DEC_CONSUME c (R141). -/
  | decConsume (c : Byte)
  /-- DEC_FINALIZE (R143). -/
  | decFinalize
  /-- SIZE_DEC_MAX (R170). -/
  | sizeDecMax
  /-- SIZE_ENC (R171). -/
  | sizeEnc
deriving DecidableEq, Repr

end Sys2Proof
end

