-- ==== Sys2Proof/WellFormed.lean ====
section
/-! DEFINITION. What makes the fields of a command word legal (spec 30_encoding.md R71, R72, R75). -/

namespace Sys2Proof

/-- The three fields of the one command format `C` (R71). -/
structure Fields where
  /-- `cmd[15:12]`, the opcode. -/
  op : BitVec 4
  /-- `cmd[11:8]`, reserved, must be 0. -/
  rsv : BitVec 4
  /-- `cmd[7:0]`, the operand, 0 for a command that takes none. -/
  data : Byte
deriving DecidableEq, Repr

/-- The opcode is one of the ten the opcode map assigns (R72); 0x0, 0x3, 0x7, 0xB, 0xE and 0xF are illegal (R75). -/
def Fields.opAssigned (f : Fields) : Bool :=
  !([0x0, 0x3, 0x7, 0xB, 0xE, 0xF] : List (BitVec 4)).contains f.op

/-- The reserved field is zero (R71, R75). -/
def Fields.rsvClear (f : Fields) : Bool := f.rsv == 0

/-- The opcode names a command that takes a data operand (R74: mask 0xFF00). -/
def Fields.takesData (f : Fields) : Bool :=
  ([0x1, 0x2, 0x5, 0x9] : List (BitVec 4)).contains f.op

/-- `data` is zero unless the command takes an operand (R71, R75). -/
def Fields.dataAllowed (f : Fields) : Bool := f.takesData || f.data == 0

/-- The fields form a legal command: the negation of R75's three conditions. -/
def Fields.legal (f : Fields) : Bool := f.opAssigned && f.rsvClear && f.dataAllowed

/-- The fields the opcode map (R72) gives a command. -/
def Instr.toFields : Instr → Fields
  | .romValueOf c => ⟨0x1, 0, c⟩
  | .romCharOf v => ⟨0x2, 0, v⟩
  | .encReset => ⟨0x4, 0, 0⟩
  | .encConsume b => ⟨0x5, 0, b⟩
  | .encFinalize => ⟨0x6, 0, 0⟩
  | .decReset => ⟨0x8, 0, 0⟩
  | .decConsume c => ⟨0x9, 0, c⟩
  | .decFinalize => ⟨0xA, 0, 0⟩
  | .sizeDecMax => ⟨0xC, 0, 0⟩
  | .sizeEnc => ⟨0xD, 0, 0⟩

/-- A command is well formed when its fields are legal. The operand types leave no other command (R73: `data` is any
unsigned 8-bit number), so every term of `Instr` is well formed; ill-formed are only field triples. -/
def Instr.wellFormed (i : Instr) : Bool := i.toFields.legal

end Sys2Proof
end

