-- ==== Sys2Proof/Decode.lean ====
section
/-! DEFINITION. The decoder and the encoder of command words (spec 30_encoding.md R71 to R75, opcode_table.json). -/

namespace Sys2Proof

/-- Why a word is illegal (R75). The three reasons have one response (ILLEGAL_COMMAND); which is named when several
apply is not observable (log entry 8). -/
inductive Illegal where
  /-- `op` is 0x0, 0x3, 0x7, 0xB, 0xE or 0xF. Raised by decode; the step answers ILLEGAL_COMMAND. -/
  | unassignedOpcode (op : BitVec 4)
  /-- `rsv` is not zero. Raised by decode; the step answers ILLEGAL_COMMAND. -/
  | reservedBitsSet (rsv : BitVec 4)
  /-- A command without a data operand has a `data` field that is not zero. Raised by decode; the step answers
  ILLEGAL_COMMAND. -/
  | strayData (data : Byte)
deriving DecidableEq, Repr

/-- `cmd[15:12]` (R71). -/
def opField (w : Word) : BitVec 4 := w.extractLsb' 12 4

/-- `cmd[11:8]` (R71). -/
def rsvField (w : Word) : BitVec 4 := w.extractLsb' 8 4

/-- `cmd[7:0]` (R71, R73: an unsigned 8-bit number, no extension, scaling or shift). -/
def dataField (w : Word) : Byte := w.extractLsb' 0 8

/-- A word's three fields. -/
def fieldsOf (w : Word) : Fields := ⟨opField w, rsvField w, dataField w⟩

/-- A command without a data operand: its `data` must be zero (R71, R75). -/
def withoutData (data : Byte) (i : Instr) : Except Illegal Instr :=
  if data = 0 then .ok i else .error (.strayData data)

/-- The opcode map (R72). -/
def decodeOp (op : BitVec 4) (data : Byte) : Except Illegal Instr :=
  match op.toNat with
  | 0x1 => .ok (.romValueOf data)
  | 0x2 => .ok (.romCharOf data)
  | 0x4 => withoutData data .encReset
  | 0x5 => .ok (.encConsume data)
  | 0x6 => withoutData data .encFinalize
  | 0x8 => withoutData data .decReset
  | 0x9 => .ok (.decConsume data)
  | 0xA => withoutData data .decFinalize
  | 0xC => withoutData data .sizeDecMax
  | 0xD => withoutData data .sizeEnc
  | _ => .error (.unassignedOpcode op)

/-- The decoder, total on 16-bit words (R75): a command, or the name of what makes the word illegal. -/
def decode (w : Word) : Except Illegal Instr :=
  if rsvField w = 0 then decodeOp (opField w) (dataField w) else .error (.reservedBitsSet (rsvField w))

/-- The word of a command, as each command's rule writes it (R103, R104, R120 to R122, R140, R141, R143, R170, R171). -/
def encode : Instr → Word
  | .romValueOf c => 0x1000#16 ||| c.setWidth 16
  | .romCharOf v => 0x2000#16 ||| v.setWidth 16
  | .encReset => 0x4000#16
  | .encConsume b => 0x5000#16 ||| b.setWidth 16
  | .encFinalize => 0x6000#16
  | .decReset => 0x8000#16
  | .decConsume c => 0x9000#16 ||| c.setWidth 16
  | .decFinalize => 0xA000#16
  | .sizeDecMax => 0xC000#16
  | .sizeEnc => 0xD000#16

/-- A row of the opcode table: the words `w` with `w & mask = pattern` are its command's (R74). -/
structure OpcodeRow where
  mnemonic : String
  pattern : Word
  mask : Word
deriving DecidableEq, Repr

/-- The word is a word of the row (R74). -/
def OpcodeRow.covers (r : OpcodeRow) (w : Word) : Bool := w &&& r.mask == r.pattern

/-- A command's row: `pattern = op << 12`; mask 0xFF00 with a data operand and 0xFFFF without (R74). -/
def opcodeRow : Instr → OpcodeRow
  | .romValueOf _ => ⟨"ROM_VALUE_OF", 0x1000, 0xFF00⟩
  | .romCharOf _ => ⟨"ROM_CHAR_OF", 0x2000, 0xFF00⟩
  | .encReset => ⟨"ENC_RESET", 0x4000, 0xFFFF⟩
  | .encConsume _ => ⟨"ENC_CONSUME", 0x5000, 0xFF00⟩
  | .encFinalize => ⟨"ENC_FINALIZE", 0x6000, 0xFFFF⟩
  | .decReset => ⟨"DEC_RESET", 0x8000, 0xFFFF⟩
  | .decConsume _ => ⟨"DEC_CONSUME", 0x9000, 0xFF00⟩
  | .decFinalize => ⟨"DEC_FINALIZE", 0xA000, 0xFFFF⟩
  | .sizeDecMax => ⟨"SIZE_DEC_MAX", 0xC000, 0xFFFF⟩
  | .sizeEnc => ⟨"SIZE_ENC", 0xD000, 0xFFFF⟩

/-- The ten rows, in the table's order. -/
def opcodeTable : List OpcodeRow :=
  ([.romValueOf 0, .romCharOf 0, .encReset, .encConsume 0, .encFinalize, .decReset, .decConsume 0, .decFinalize,
    .sizeDecMax, .sizeEnc] : List Instr).map opcodeRow

/-- The 16-bit command word that the low `nbits` bits of `w` are. -/
def tableWord (nbits w : Nat) : Word := BitVec.ofNat 16 (w % 2 ^ nbits)

/-- The command that the decoder reads from a word numbered as the opcode table numbers it. Every command is one 16-bit
word (R71), so a longer row has no command (log entry 9). -/
def decodeTableWord (nbits w : Nat) : Option Instr :=
  if nbits ≤ 16 then (decode (tableWord nbits w)).toOption else none

end Sys2Proof
end

