-- ==== Sys2Proof/Config.lean ====
section
/-! DEFINITION. The implementation parameters of the CORE (spec 00_scope.md R6, 92_eei_decisions.md D8, D9). -/

namespace Sys2Proof

/-- What an implementation fixes. `MAX_LEN` is OPEN in the spec (D9: "take it as an argument"), so the model carries it
as a parameter that every statement ranges over; its bounds `1 <= MAX_LEN <= 2^32 - 1` (R6) come with it. -/
structure Config where
  /-- `MAX_LEN`, the largest output length the platform can represent. -/
  maxLen : Nat
  one_le_maxLen : 1 ≤ maxLen
  maxLen_le : maxLen ≤ 4294967295
deriving DecidableEq, Repr

/-- The identity string of the hardware (R1). -/
def Config.identity : String := "base45-core"

/-- `LEN_W`, the width of the length operand and of a size result (R6, D8). -/
def Config.lenW : Nat := 32

/-- The spec's default: `MAX_LEN = 2^31 - 1` (R6, D9). -/
def Config.standard : Config := ⟨2147483647, by decide, by decide⟩

end Sys2Proof
end

