-- ==== Sys2Proof/Machine/State.lean ====
section
/-! DEFINITION. The state of the CORE (spec 10_state.md R20 to R34), the levels of its ports (30_encoding.md R70), and the
reasons a step can stop. Plain data only. -/

namespace Sys2Proof.Machine

/-- The outcome of a command (R78). Codes 6 and 7 are never produced, so they have no constructor. -/
inductive Status where
  | ok
  | malformedEncoding
  | truncatedInput
  | sizeExceedsMaximum
  | instanceFailed
  | illegalCommand
deriving DecidableEq, Repr

/-- `dec_count`, the number of pending decoded values. The register is 2 bits wide and its encoding 3 is unreachable
(R23), so the type leaves it out, as 93_implementation_defined.md section 2 asks (log entry 6). -/
inductive DecCount where
  | zero
  | one
  | two
deriving DecidableEq, Repr

/-- The registers of `base45_encode_fsm` (R20, R21). -/
structure EncRegs where
  /-- `enc_pend`: a byte is pending. -/
  pend : Bool
  /-- `enc_byte`: the pending byte, meaningful only when `enc_pend = 1`. -/
  byte : Byte
deriving DecidableEq, Repr

/-- The registers of `base45_decode_fsm` (R20, R23 to R25). -/
structure DecRegs where
  /-- `dec_count`. -/
  count : DecCount
  /-- `dec_v[0]`, the first pending value. -/
  v0 : Value
  /-- `dec_v[1]`, the second pending value. -/
  v1 : Value
  /-- `dec_fail`: the decoder has failed (sticky). -/
  fail : Bool
  /-- `dec_err_status`, the status code of the failure that set `dec_fail`. -/
  errStatus : BitVec 3
  /-- `dec_err_detail`, its detail code. -/
  errDetail : BitVec 2
deriving DecidableEq, Repr

/-- The levels the host drives on the input ports during one step (R70). -/
structure Ports where
  /-- `rst`: reset of both transducers. -/
  rst : Bool
  /-- `cmd`: the command word. -/
  cmd : Word
  /-- `len_in`: the length operand. -/
  lenIn : Length
deriving DecidableEq, Repr

/-- The fields of the 64-bit response of one step (R77), each at its own width; `Response.word` packs them. -/
structure Response where
  status : Status
  detail : BitVec 2
  n : BitVec 2
  hit : Bool
  out0 : Byte
  out1 : Byte
  out2 : Byte
  result : Length
deriving DecidableEq, Repr

/-- The state of a run: the registers of R20, and beside them what the model adds to make a run a function of one
state: the port levels, the response, the host's moves still to come, and the implementation parameters (R6). -/
structure State where
  /-- The encoder's registers (R20). -/
  enc : EncRegs
  /-- The decoder's registers (R20). -/
  dec : DecRegs
  /-- The levels on the input ports in the step last taken (R70; log entry 2). -/
  ports : Ports
  /-- The response of the step last taken, on the `rsp` port (R77; log entry 3). -/
  rsp : Response
  /-- The host's moves still to come, the next first (R60, R226; log entry 1). -/
  pending : List Ports
  /-- The parameters of this CORE; no step writes them (R6, R20; log entry 4). -/
  config : Config
deriving DecidableEq, Repr

/-- Why a step faults. -/
inductive Fault where
  /-- Raised by `step` alone, when the host has no further move: the CORE takes one command word per step (R11) and makes
  no step without one. Safe: the model stops where the hardware waits. -/
  | noHostMove
deriving DecidableEq, Repr

/-- Why a step is refused. The spec refuses no host step (R232), so the model refuses none. -/
inductive Refusal where
  /-- Raised by an arm of `exec` whose instruction has no meaning yet; no arm of this model does. Safe. -/
  | notModelled (mnemonic : String)
deriving DecidableEq, Repr

/-- The encoder after reset: `Empty`, with `enc_byte` 0 (R34). -/
def EncRegs.reset : EncRegs := ⟨false, 0⟩

/-- The decoder after reset: no pending value, not failed (R34). -/
def DecRegs.reset : DecRegs := ⟨.zero, 0, 0, false, 0, 0⟩

/-- The all-zero response (R81, R221). -/
def Response.zero : Response := ⟨.ok, 0, 0, false, 0, 0, 0, 0⟩

/-- The ports with nothing driven (log entry 2). -/
def Ports.idle : Ports := ⟨false, 0, 0⟩

/-- The reset state of a CORE with the given parameters (R34). -/
def State.resetWith (config : Config) : State :=
  { enc := .reset, dec := .reset, ports := .idle, rsp := .zero, pending := [], config := config }

/-- The machine right after reset, with the spec's default parameters (R6, R34). -/
def State.reset : State := State.resetWith .standard

end Sys2Proof.Machine
end

