-- ==== Sys2Proof/Machine/Flags.lean ====
section
/-! DEFINITION. The response of a command: status and detail codes, the hit bit, the output lanes, the result field (spec
30_encoding.md R77 to R81). The CORE retains no flags (10_state.md R30); these are all its outcome bits. -/

namespace Sys2Proof.Machine

/-- The 3-bit code of a status (R78). -/
def Status.code : Status → BitVec 3
  | .ok => 0
  | .malformedEncoding => 1
  | .truncatedInput => 2
  | .sizeExceedsMaximum => 3
  | .instanceFailed => 4
  | .illegalCommand => 5

/-- Detail 1: the character is not in the alphabet (R79). -/
def detailNotInAlphabet : BitVec 2 := 1

/-- Detail 2: a completed triple's value exceeds 65535 (R79). -/
def detailTripleRange : BitVec 2 := 2

/-- Detail 3: a completed pair's value exceeds 255 (R79). -/
def detailPairRange : BitVec 2 := 3

/-- The number of pending values as a number (R20). -/
def DecCount.toNat : DecCount → Nat
  | .zero => 0
  | .one => 1
  | .two => 2

/-- `status <- OK` with every other field 0 (R81). -/
def Response.ok : Response := Response.zero

/-- `emit(u)`: append a unit to the output lanes (R10, R80). No command emits a fourth. -/
def Response.emit (r : Response) (u : Byte) : Response :=
  match r.n.toNat with
  | 0 => { r with n := 1, out0 := u }
  | 1 => { r with n := 2, out1 := u }
  | 2 => { r with n := 3, out2 := u }
  | _ => r

/-- A look-up that found an entry: `hit <- 1; result <- v` (R103, R104). -/
def Response.found (v : Length) : Response := { Response.ok with hit := true, result := v }

/-- A look-up that found none: `hit <- 0; result <- 0` (R103, R104). A miss is a result, not a failure. -/
def Response.missed : Response := { Response.ok with hit := false, result := 0 }

/-- A size query's result (R170, R171). -/
def Response.sized (v : Length) : Response := { Response.ok with result := v }

/-- `raise st(det)`: a failure response; nothing is emitted and the result is 0 (R10, R144, R171). -/
def Response.raise (st : Status) (det : BitVec 2) : Response := { Response.zero with status := st, detail := det }

/-- INSTANCE_FAILED, repeating the latched detail and reporting the latched status (R145, R194). -/
def Response.failedBefore (d : DecRegs) : Response :=
  { Response.zero with status := .instanceFailed, detail := d.errDetail, result := d.errStatus.setWidth 32 }

/-- The units a response delivers: lanes 0 to `n - 1`, in emission order (R80, R227). -/
def Response.units (r : Response) : List Byte := [r.out0, r.out1, r.out2].take r.n.toNat

/-- The 64-bit response word on the `rsp` port (R77): `result[63:32]`, `out2`, `out1`, `out0`, `hit[7]`, `n[6:5]`,
`detail[4:3]`, `status[2:0]`. -/
def Response.word (r : Response) : BitVec 64 :=
  r.result ++ r.out2 ++ r.out1 ++ r.out0 ++ BitVec.ofBool r.hit ++ r.n ++ r.detail ++ r.status.code

end Sys2Proof.Machine
end

