-- ==== Sys2Proof/Machine/RomTables.lean ====
section
/-! DEFINITION. The contents of the two read-only spaces of `base45_alphabet_rom` and the internal look-ups over them (spec
20_memory.md R50 to R52, 40_alphabet_rom.md R100 to R107). They are constants of the hardware, not state (R20, R51). -/

namespace Sys2Proof.Machine

/-- `CHAR_ROM` (R101): the code of the `v`-th alphabet character, for `v` in 0 to 44. Addresses 45 to 63 are unpopulated
(R52). -/
def charRom : List Byte :=
  -- values 0 to 14: '0' to '9', 'A' to 'E'
  [0x30, 0x31, 0x32, 0x33, 0x34, 0x35, 0x36, 0x37, 0x38, 0x39, 0x41, 0x42, 0x43, 0x44, 0x45] ++
  -- values 15 to 29: 'F' to 'T'
  [0x46, 0x47, 0x48, 0x49, 0x4A, 0x4B, 0x4C, 0x4D, 0x4E, 0x4F, 0x50, 0x51, 0x52, 0x53, 0x54] ++
  -- values 30 to 44: 'U' to 'Z', then space and $ % * + - . / :
  [0x55, 0x56, 0x57, 0x58, 0x59, 0x5A, 0x20, 0x24, 0x25, 0x2A, 0x2B, 0x2D, 0x2E, 0x2F, 0x3A]

theorem charRom_length : charRom.length = 45 := rfl

/-- `RomChar(v)` for `v` in 0 to 44 (R105). The type excludes the unpopulated addresses, which no internal path reads
(R52, R123). -/
def romChar (v : Fin 45) : Byte := charRom.get (v.cast charRom_length.symm)

/-- The `VALUE_ROM` entry of a code that is in the alphabet: `hit = 1` and its value (R50, R102). -/
def romHit (v : Nat) : BitVec 7 := 1#1 ++ BitVec.ofNat 6 v

/-- `VALUE_ROM` (R102), all 256 entries `(hit[6], value[5:0])`, in the rule's closed form. -/
def valueRom (c : Byte) : BitVec 7 :=
  if 0x30 ≤ c.toNat ∧ c.toNat ≤ 0x39 then romHit (c.toNat - 0x30)
  else if 0x41 ≤ c.toNat ∧ c.toNat ≤ 0x5A then romHit (c.toNat - 0x41 + 10)
  else if c.toNat = 0x20 then romHit 36
  else if c.toNat = 0x24 then romHit 37
  else if c.toNat = 0x25 then romHit 38
  else if c.toNat = 0x2A then romHit 39
  else if c.toNat = 0x2B then romHit 40
  else if c.toNat = 0x2D then romHit 41
  else if c.toNat = 0x2E then romHit 42
  else if c.toNat = 0x2F then romHit 43
  else if c.toNat = 0x3A then romHit 44
  else 0

/-- `RomValue(c)` (R106): the value of a code, or `none` when `VALUE_ROM[c].hit = 0`. -/
def romValue (c : Byte) : Option Value :=
  if (valueRom c).extractLsb' 6 1 = 1#1 then some ((valueRom c).extractLsb' 0 6) else none

end Sys2Proof.Machine
end

