-- ==== Sys2Proof/Machine/Operands.lean ====
section
/-! DEFINITION. How a command reads its operands and how units form group values and digits (spec 00_scope.md R9,
30_encoding.md R73, 20_memory.md R53 to R55). Arithmetic is exact, on natural numbers (R9). -/

namespace Sys2Proof.Machine

/-- The length operand `n = len_in`, an unsigned 32-bit number (R73, R76). -/
def lenOperand (s : State) : Nat := s.ports.lenIn.toNat

/-- The value of an encode group: the earlier byte is the high-order one, `(b0 << 8) | b` on 16 bits (R53, R121). -/
def bytePairValue (b0 b : Byte) : Nat := ((b0.setWidth 16 <<< 8) ||| b.setWidth 16 : BitVec 16).toNat

/-- The value of a trailing byte, `zext_16(enc_byte)` (R122). -/
def trailingByteValue (b : Byte) : Nat := (b.setWidth 16 : BitVec 16).toNat

/-- `RomChar(value % 45)`: the character of a value's least significant base-45 digit (R121, R123). -/
def digitChar (value : Nat) : Byte := romChar ⟨value % 45, Nat.mod_lt _ (by decide)⟩

/-- The value of a complete character group, least significant digit first (R54, R141). The third value is combined
here and never stored (R142). -/
def tripleValue (v0 v1 v : Value) : Nat := v0.toNat + v1.toNat * 45 + v.toNat * 45 * 45

/-- The value of a trailing character group of two (R54, R143). -/
def pairValue (v0 v1 : Value) : Nat := v0.toNat + v1.toNat * 45

/-- The high-order byte of a triple's value, `triple >> 8` (R55, R141). -/
def tripleHigh (triple : Nat) : Byte := BitVec.ofNat 8 (triple >>> 8)

/-- The low-order byte of a triple's value, `triple & 0xFF` (R55, R141). -/
def tripleLow (triple : Nat) : Byte := BitVec.ofNat 8 (triple &&& 0xFF)

/-- The code a host gives a character of its own (R7; 92_eei_decisions.md D3): its code when that has 8 bits, and
otherwise one that misses (0x80, D3's example), never a truncated one. -/
def hostCharCode (c : Char) : Byte := if c.toNat < 256 then BitVec.ofNat 8 c.toNat else 0x80

end Sys2Proof.Machine
end

