-- ==== Sys2Proof/Machine/Ops.lean ====
section
/-! DEFINITION. The named operations over the registers that the meanings share: delivering a response, the encoder's and
the decoder's transitions, the failure action and the resets that leave it, and taking the host's next move. -/

namespace Sys2Proof.Machine

/-- The step's response goes on the `rsp` port (R77). -/
def respond (r : Response) (s : State) : State := { s with rsp := r }

/-- `enc_pend <- 1; enc_byte <- b`: to `Pending(b)` (R21, R121). -/
def encHold (b : Byte) (s : State) : State := { s with enc := { pend := true, byte := b } }

/-- `enc_pend <- 0; enc_byte <- 0`: to `Empty`, the encoder's reset state (R22, R34, R120 to R122). -/
def encClear (s : State) : State := { s with enc := { pend := false, byte := 0 } }

/-- `dec_v[0] <- v; dec_count <- 1` (R141). -/
def decHoldFirst (v : Value) (s : State) : State := { s with dec := { s.dec with v0 := v, count := .one } }

/-- `dec_v[1] <- v; dec_count <- 2` (R141). -/
def decHoldSecond (v : Value) (s : State) : State := { s with dec := { s.dec with v1 := v, count := .two } }

/-- `dec_count <- 0; dec_v[0] <- 0; dec_v[1] <- 0`: the group is complete (R24, R141, R143). -/
def decClearGroup (s : State) : State := { s with dec := { s.dec with count := .zero, v0 := 0, v1 := 0 } }

/-- `fail(st, det)`, the decoder's failure entry (R144, R197): the latch is set with the failure's codes, the buffer keeps
its values, nothing is emitted, and the response is the failure. -/
def failDecoder (st : Status) (det : BitVec 2) (s : State) : State :=
  respond (.raise st det) { s with dec := { s.dec with fail := true, errStatus := st.code, errDetail := det } }

/-- A command to a failed decoder changes no register and reports INSTANCE_FAILED (R145, R194). -/
def reportFailed (s : State) : State := respond (.failedBefore s.dec) s

/-- All decoder registers to their reset values: with `rst` the only way out of the failed state (R34, R140, R200). -/
def decClear (s : State) : State :=
  { s with dec := { count := .zero, v0 := 0, v1 := 0, fail := false, errStatus := 0, errDetail := 0 } }

/-- While `rst` is asserted both transducers are reset, no command is executed and the response is all zero (R220 (a),
R221). -/
def assertRst (s : State) : State := respond .zero (decClear (encClear s))

/-- An illegal word changes no state, emits nothing and is not latched (R75, R195). -/
def illegalCommand (s : State) : State := respond (.raise .illegalCommand 0) s

/-- The host presents its next move on the ports (R11, R60, R226); `none` when it has no further move. -/
def nextMove (s : State) : Option State :=
  match s.pending with
  | [] => none
  | p :: rest => some { s with ports := p, pending := rest }

end Sys2Proof.Machine
end

