-- ==== Sys2Proof/Machine/Decoder.lean ====
section
/-! DEFINITION. The commands of `base45_decode_fsm` (spec 42_decode_fsm.md). -/

namespace Sys2Proof.Machine

/-- DEC_RESET (R140). -/
def execDecReset (s : State) : Host.Outcome State Fault Refusal :=
  .next (respond .ok (decClear s))

/-- The two bytes of a complete triple, the high-order one first (R55, R141). -/
def emitTriple (triple : Nat) : Response :=
  (Response.ok.emit (tripleHigh triple)).emit (tripleLow triple)

/-- The third value of a group arrives: the range check, then the two bytes (R141, R142, R146). -/
def completeTriple (triple : Nat) (s : State) : State :=
  if triple > 65535 then failDecoder .malformedEncoding detailTripleRange s
  else respond (emitTriple triple) (decClearGroup s)

/-- An alphabet value arrives at a decoder that has not failed (R141, the inner case). -/
def acceptValue (v : Value) (s : State) : State :=
  match s.dec.count with
  | .zero => respond .ok (decHoldFirst v s)
  | .one => respond .ok (decHoldSecond v s)
  | .two => completeTriple (tripleValue s.dec.v0 s.dec.v1 v) s

/-- DEC_CONSUME c (R141): the latch, then membership, then the group (R199). -/
def execDecConsume (c : Byte) (s : State) : Host.Outcome State Fault Refusal :=
  if s.dec.fail then .next (reportFailed s)
  else
    match romValue c with
    | none => .next (failDecoder .malformedEncoding detailNotInAlphabet s)
    | some v => .next (acceptValue v s)

/-- The trailing pair at the end of the stream: the range check, then its byte (R143, R146). -/
def completePair (pair : Nat) (s : State) : State :=
  if pair > 255 then failDecoder .malformedEncoding detailPairRange s
  else respond (Response.ok.emit (BitVec.ofNat 8 pair)) (decClearGroup s)

/-- DEC_FINALIZE (R143). -/
def execDecFinalize (s : State) : Host.Outcome State Fault Refusal :=
  if s.dec.fail then .next (reportFailed s)
  else
    match s.dec.count with
    | .zero => .next (respond .ok s)
    | .one => .next (failDecoder .truncatedInput 0 s)
    | .two => .next (completePair (pairValue s.dec.v0 s.dec.v1) s)

end Sys2Proof.Machine
end

