-- ==== Sys2Proof/Machine/Encoder.lean ====
section
/-! DEFINITION. The commands of `base45_encode_fsm` (spec 41_encode_fsm.md). -/

namespace Sys2Proof.Machine

/-- ENC_RESET (R120). -/
def execEncReset (s : State) : Host.Outcome State Fault Refusal :=
  .next (respond .ok (encClear s))

/-- The three characters of a two-byte group, least significant digit first (R54, R121). -/
def emitByteGroup (value : Nat) : Response :=
  ((Response.ok.emit (digitChar value)).emit (digitChar (value / 45))).emit (digitChar (value / 45 / 45))

/-- ENC_CONSUME b (R121). -/
def execEncConsume (b : Byte) (s : State) : Host.Outcome State Fault Refusal :=
  if s.enc.pend then
    .next (respond (emitByteGroup (bytePairValue s.enc.byte b)) (encClear s))
  else
    .next (respond .ok (encHold b s))

/-- The two characters of a trailing byte (R122). -/
def emitTrailingByte (value : Nat) : Response :=
  (Response.ok.emit (digitChar value)).emit (digitChar (value / 45))

/-- ENC_FINALIZE (R122). -/
def execEncFinalize (s : State) : Host.Outcome State Fault Refusal :=
  if s.enc.pend then
    .next (respond (emitTrailingByte (trailingByteValue s.enc.byte)) (encClear s))
  else
    .next (respond .ok s)

end Sys2Proof.Machine
end

