-- ==== Sys2Proof/Machine/Rom.lean ====
section
/-! DEFINITION. The commands of `base45_alphabet_rom` (spec 40_alphabet_rom.md section 3). -/

namespace Sys2Proof.Machine

/-- ROM_VALUE_OF c (R103). -/
def execRomValueOf (c : Byte) (s : State) : Host.Outcome State Fault Refusal :=
  match romValue c with
  | some v => .next (respond (.found (v.setWidth 32)) s)
  | none => .next (respond .missed s)

/-- ROM_CHAR_OF v (R104). -/
def execRomCharOf (v : Byte) (s : State) : Host.Outcome State Fault Refusal :=
  if h : v.toNat ≤ 44 then
    .next (respond (.found ((romChar ⟨v.toNat, Nat.lt_succ_of_le h⟩).setWidth 32)) s)
  else
    .next (respond .missed s)

end Sys2Proof.Machine
end

