-- ==== Sys2Proof/Machine/SizeCalc.lean ====
section
/-! DEFINITION. `size_calc_combinatorial`: its formulas, its two commands and its three combinatorial outputs (spec
43_size_calc.md). -/

namespace Sys2Proof.Machine

/-- `ceil(n / 3) * 2`, in the form R170 gives it. -/
def decMaxSize (n : Nat) : Nat := (n / 3 + (if n % 3 = 0 then 0 else 1)) * 2

/-- `T = (MAX_LEN / 3) * 2`, the largest length SIZE_ENC accepts (R171; 90_conflicts.md C3). -/
def encThreshold (maxLen : Nat) : Nat := maxLen / 3 * 2

/-- The exact encoded size of `n` bytes (R171). -/
def encExactSize (n : Nat) : Nat := n / 2 * 3 + n % 2 * 2

/-- The response of SIZE_ENC for a length under a given `MAX_LEN` (R171). -/
def encSizeResponse (maxLen n : Nat) : Response :=
  if n > encThreshold maxLen then .raise .sizeExceedsMaximum 0
  else .sized (BitVec.ofNat 32 (encExactSize n))

/-- SIZE_DEC_MAX (R170). -/
def execSizeDecMax (s : State) : Host.Outcome State Fault Refusal :=
  .next (respond (.sized (BitVec.ofNat 32 (decMaxSize (lenOperand s)))) s)

/-- SIZE_ENC (R171). The failure is not latched and touches neither transducer. -/
def execSizeEnc (s : State) : Host.Outcome State Fault Refusal :=
  .next (respond (encSizeResponse s.config.maxLen (lenOperand s)) s)

/-- The output port `dec_max_size`, driven continuously from `len_in` (R172). -/
def portDecMaxSize (s : State) : Length := BitVec.ofNat 32 (decMaxSize s.ports.lenIn.toNat)

/-- The output port `enc_ovf` (R172). -/
def portEncOvf (s : State) : Bool := decide (s.ports.lenIn.toNat > s.config.maxLen / 3 * 2)

/-- The output port `enc_size` (R172). -/
def portEncSize (s : State) : Length :=
  if portEncOvf s then 0 else BitVec.ofNat 32 (encExactSize s.ports.lenIn.toNat)

/-- The output port `rsp` (R70, R77). -/
def portRsp (s : State) : BitVec 64 := s.rsp.word

end Sys2Proof.Machine
end

