-- ==== Sys2Proof/Machine/Dispatch.lean ====
section
/-! DEFINITION. One arm per command: each calls its own meaning. -/

namespace Sys2Proof.Machine

/-- What a command does (30_encoding.md R72 names the rule of each). -/
def exec (i : Instr) (s : State) : Host.Outcome State Fault Refusal :=
  match i with
  | .romValueOf c => Sys2Proof.Machine.execRomValueOf c s
  | .romCharOf v => Sys2Proof.Machine.execRomCharOf v s
  | .encReset => Sys2Proof.Machine.execEncReset s
  | .encConsume b => Sys2Proof.Machine.execEncConsume b s
  | .encFinalize => Sys2Proof.Machine.execEncFinalize s
  | .decReset => Sys2Proof.Machine.execDecReset s
  | .decConsume c => Sys2Proof.Machine.execDecConsume c s
  | .decFinalize => Sys2Proof.Machine.execDecFinalize s
  | .sizeDecMax => Sys2Proof.Machine.execSizeDecMax s
  | .sizeEnc => Sys2Proof.Machine.execSizeEnc s

end Sys2Proof.Machine
end

