-- ==== Sys2Proof/Machine/Command.lean ====
section
/-! DEFINITION. What one step does with the levels on the input ports (spec 00_scope.md R11, 60_exceptions.md R199,
70_reset_and_hazards.md R221). -/

namespace Sys2Proof.Machine

/-- `rst` first (R221), then the legality of the word, before any unit acts (R75, R199), then the command. -/
def runPorts (s : State) : Host.Outcome State Fault Refusal :=
  if s.ports.rst then .next (assertRst s)
  else
    match decode s.ports.cmd with
    | .ok i => exec i s
    | .error _ => .next (illegalCommand s)

/-- The host's moves with this one placed before them: the very next step takes it, with `rst` released and `len_in` held
at its present level. -/
def placeWord (w : Word) (s : State) : State :=
  { s with pending := { rst := false, cmd := w, lenIn := s.ports.lenIn } :: s.pending }

end Sys2Proof.Machine
end

