-- ==== Sys2Proof/Machine/Step.lean ====
section
/-! DEFINITION. One step of the CORE (spec 00_scope.md R11). -/

namespace Sys2Proof.Machine

/-- A step takes the host's next move and answers the state with that move's effect and response. -/
def step (s : State) : Host.Outcome State Fault Refusal :=
  match nextMove s with
  | none => .fault .noHostMove
  | some s' => runPorts s'

/-- The state in which the very next step runs the given command word (log entry 5). -/
def State.withFetchWord (s : State) (nbits w : Nat) : State := placeWord (tableWord nbits w) s

end Sys2Proof.Machine
end

