-- ==== Sys2Proof/Machine/Streams.lean ====
section
/-! DEFINITION. Streams: the commands of one encode or decode operation (spec 30_encoding.md R83, 70_reset_and_hazards.md
R224), the host's moves that present them, and the stream functions the rules define apart from the machine
(41_encode_fsm.md R124, 42_decode_fsm.md R148). -/

namespace Sys2Proof.Machine

/-- ENC_STREAM: reset, one consume per byte in stream order, finalize exactly once (R83, R224). -/
def encStream (bytes : List Byte) : List Instr := .encReset :: (bytes.map .encConsume ++ [.encFinalize])

/-- DEC_STREAM: reset, one consume per character in stream order, finalize exactly once (R83, R224). -/
def decStream (codes : List Byte) : List Instr := .decReset :: (codes.map .decConsume ++ [.decFinalize])

/-- DEC_STREAM of a host's own characters, each at the code D3 asks the host to give it. -/
def decStreamOfChars (chars : List Char) : List Instr := decStream (chars.map hostCharCode)

/-- The move that presents one command, with `len_in` at a given level (R70, R226). -/
def commandMove (lenIn : Length) (i : Instr) : Ports := { rst := false, cmd := encode i, lenIn := lenIn }

/-- The moves that present commands one a step, in order (R60). -/
def commandMoves (lenIn : Length) (is : List Instr) : List Ports := is.map (commandMove lenIn)

/-- The state of a CORE whose host is about to make the given moves. -/
def State.facing (s : State) (moves : List Ports) : State := { s with pending := moves }

/-- `Encode(B)` (R124): three characters for each pair of bytes, two for a trailing byte, least significant digit first.
Written from the rule's own formulas, apart from the encoder's. -/
def encodeBytes : List Byte → List Byte
  | [] => []
  | [b] => [digitChar b.toNat, digitChar (b.toNat / 45)]
  | b0 :: b1 :: rest =>
    let value := b0.toNat * 256 + b1.toNat
    digitChar value :: digitChar (value / 45) :: digitChar (value / 2025) :: encodeBytes rest

/-- How a decode stream ends: with success, or with a first failure (R148). -/
inductive StreamEnd where
  | success
  | failure (status : Status) (detail : BitVec 2)
deriving DecidableEq, Repr

/-- `Decode(S)` with its failures in the order R148 gives: the bytes of the complete triples before the first failure, and
how the stream ends. -/
def decodeCodes : List Byte → List Byte × StreamEnd
  | [] => ([], .success)
  | [c0] =>
    match romValue c0 with
    | some _ => ([], .failure .truncatedInput 0)
    | none => ([], .failure .malformedEncoding 1)
  | [c0, c1] =>
    match romValue c0, romValue c1 with
    | some v0, some v1 =>
      let pair := v0.toNat + v1.toNat * 45
      if pair ≤ 255 then ([BitVec.ofNat 8 pair], .success) else ([], .failure .malformedEncoding 3)
    | _, _ => ([], .failure .malformedEncoding 1)
  | c0 :: c1 :: c2 :: rest =>
    match romValue c0, romValue c1, romValue c2 with
    | some v0, some v1, some v2 =>
      let triple := v0.toNat + v1.toNat * 45 + v2.toNat * 2025
      if triple ≤ 65535 then
        let later := decodeCodes rest
        (BitVec.ofNat 8 (triple / 256) :: BitVec.ofNat 8 (triple % 256) :: later.1, later.2)
      else ([], .failure .malformedEncoding 2)
    | _, _, _ => ([], .failure .malformedEncoding 1)

end Sys2Proof.Machine
end

