-- ==== Sys2Proof/Machine/Assembler.lean ====
section
/-! DEFINITION. The assembler syntax and the pseudo-commands (spec 30_encoding.md R82, R83). No behaviour of the hardware
depends on it (92_eei_decisions.md D25). A line is a list of characters. -/

namespace Sys2Proof.Machine

/-- Why a line is not an assembler line. -/
inductive AsmError where
  /-- The first word is no mnemonic. -/
  | unknownMnemonic
  /-- The operand is missing or is not of the form the mnemonic takes. -/
  | badOperand
  /-- A number or a character does not fit its operand (R7: a character is an 8-bit code). -/
  | operandTooLarge
  /-- Text other than a comment follows the operand. -/
  | textAfterOperand
deriving DecidableEq, Repr

/-- A command of a line and, for a size command, the value the line says the host drives on `len_in` (R82). -/
structure AsmCommand where
  instr : Instr
  lenIn : Option Length
deriving DecidableEq, Repr

/-- A blank between the parts of a line. -/
def isBlank (c : Char) : Bool := c == ' ' || c == '\t'

/-- The line from its next part on. -/
def skipBlanks (cs : List Char) : List Char := cs.dropWhile isBlank

/-- A character of a mnemonic: a capital letter or an underscore. -/
def isNameChar (c : Char) : Bool := (65 ≤ c.toNat && c.toNat ≤ 90) || c == '_'

/-- Only blanks, or a comment from `;` to the end of the line (R82). -/
def lineEnds (cs : List Char) : Bool :=
  match skipBlanks cs with
  | [] => true
  | c :: _ => c == ';'

/-- The value of a digit character in base 16. -/
def digitValue (c : Char) : Option Nat :=
  if 48 ≤ c.toNat ∧ c.toNat ≤ 57 then some (c.toNat - 48)
  else if 65 ≤ c.toNat ∧ c.toNat ≤ 70 then some (c.toNat - 55)
  else if 97 ≤ c.toNat ∧ c.toNat ≤ 102 then some (c.toNat - 87)
  else none

/-- The number that a run of digits continues, and the rest of the line. -/
def moreDigits (base : Nat) : Nat → List Char → Nat × List Char
  | acc, [] => (acc, [])
  | acc, c :: cs =>
    match digitValue c with
    | some d => if d < base then moreDigits base (acc * base + d) cs else (acc, c :: cs)
    | none => (acc, c :: cs)

/-- A run of at least one digit. -/
def digits (base : Nat) (cs : List Char) : Except AsmError (Nat × List Char) :=
  let r := moreDigits base 0 cs
  if r.2.length < cs.length then .ok r else .error .badOperand

/-- A decimal or `0x` hexadecimal number (R82). -/
def number : List Char → Except AsmError (Nat × List Char)
  | '0' :: 'x' :: cs => digits 16 cs
  | cs => digits 10 cs

/-- The 8-bit code of a character (R7); a character whose code has more bits has none. -/
def charUnit (c : Char) : Except AsmError Byte :=
  if c.toNat < 256 then .ok (BitVec.ofNat 8 c.toNat) else .error .operandTooLarge

/-- A data operand: a quoted character or a number that fits 8 bits (R82). -/
def dataUnit : List Char → Except AsmError (Byte × List Char)
  | '\'' :: c :: '\'' :: cs => (charUnit c).map fun u => (u, cs)
  | cs =>
    match number cs with
    | .ok (v, rest) => if v < 256 then .ok (BitVec.ofNat 8 v, rest) else .error .operandTooLarge
    | .error e => .error e

/-- A length operand `n=<number>` that fits `len_in` (R82, R70). -/
def lengthUnit : List Char → Except AsmError (Length × List Char)
  | 'n' :: '=' :: cs =>
    match number cs with
    | .ok (v, rest) => if v < 4294967296 then .ok (BitVec.ofNat 32 v, rest) else .error .operandTooLarge
    | .error e => .error e
  | _ => .error .badOperand

/-- The codes of the characters up to the closing quote of a text (R83). -/
def quotedText : List Char → Except AsmError (List Byte × List Char)
  | [] => .error .badOperand
  | c :: cs =>
    if c = '"' then .ok ([], cs)
    else
      match charUnit c, quotedText cs with
      | .ok u, .ok (us, rest) => .ok (u :: us, rest)
      | .error e, _ => .error e
      | _, .error e => .error e

/-- `b1, ..., bk` with at least one unit (R83); the fuel bounds the number of units. -/
def unitList : Nat → List Char → Except AsmError (List Byte × List Char)
  | 0, _ => .error .badOperand
  | fuel + 1, cs =>
    match dataUnit (skipBlanks cs) with
    | .error e => .error e
    | .ok (u, rest) =>
      match skipBlanks rest with
      | ',' :: more => (unitList fuel more).map fun r => (u :: r.1, r.2)
      | _ => .ok ([u], rest)

/-- The operand of a stream pseudo-command: a quoted text or, for ENC_STREAM, a list of units (R83). -/
def streamUnits (unitsAllowed : Bool) (cs : List Char) : Except AsmError (List Byte × List Char) :=
  match cs with
  | '"' :: text => quotedText text
  | _ => if unitsAllowed then unitList cs.length cs else .error .badOperand

/-- The commands of a line, once its operand is read; nothing but a comment may follow (R82). -/
def endLine (cmds : List AsmCommand) (rest : List Char) : Except AsmError (List AsmCommand) :=
  if lineEnds rest then .ok cmds else .error .textAfterOperand

/-- A command without an operand. -/
def plainLine (i : Instr) (cs : List Char) : Except AsmError (List AsmCommand) := endLine [⟨i, none⟩] cs

/-- A command with a data operand. -/
def dataLine (i : Byte → Instr) (cs : List Char) : Except AsmError (List AsmCommand) :=
  match dataUnit cs with
  | .ok (u, rest) => endLine [⟨i u, none⟩] rest
  | .error e => .error e

/-- A size command with its length operand. -/
def sizeLine (i : Instr) (cs : List Char) : Except AsmError (List AsmCommand) :=
  match lengthUnit cs with
  | .ok (n, rest) => endLine [⟨i, some n⟩] rest
  | .error e => .error e

/-- A stream pseudo-command. -/
def streamLine (stream : List Byte → List Instr) (unitsAllowed : Bool) (cs : List Char) :
    Except AsmError (List AsmCommand) :=
  match streamUnits unitsAllowed cs with
  | .ok (us, rest) => endLine ((stream us).map fun i => ⟨i, none⟩) rest
  | .error e => .error e

/-- The commands of one line (R82, R83): none for a blank line or a comment, one for a command, and the expansion of a
pseudo-command. -/
def assembleLine (line : List Char) : Except AsmError (List AsmCommand) :=
  if lineEnds line then .ok []
  else
    let name := (skipBlanks line).takeWhile isNameChar
    let operand := skipBlanks ((skipBlanks line).dropWhile isNameChar)
    if name = "ROM_VALUE_OF".toList then dataLine .romValueOf operand
    else if name = "ROM_CHAR_OF".toList then dataLine .romCharOf operand
    else if name = "ENC_RESET".toList then plainLine .encReset operand
    else if name = "ENC_CONSUME".toList then dataLine .encConsume operand
    else if name = "ENC_FINALIZE".toList then plainLine .encFinalize operand
    else if name = "DEC_RESET".toList then plainLine .decReset operand
    else if name = "DEC_CONSUME".toList then dataLine .decConsume operand
    else if name = "DEC_FINALIZE".toList then plainLine .decFinalize operand
    else if name = "SIZE_DEC_MAX".toList then sizeLine .sizeDecMax operand
    else if name = "SIZE_ENC".toList then sizeLine .sizeEnc operand
    else if name = "ENC_STREAM".toList then streamLine encStream true operand
    else if name = "DEC_STREAM".toList then streamLine decStream false operand
    else .error .unknownMnemonic

/-- The move that presents an assembled command: the host drives the documented length, or holds `len_in` (R82). -/
def AsmCommand.move (held : Length) (c : AsmCommand) : Ports := commandMove (c.lenIn.getD held) c.instr

end Sys2Proof.Machine
end

