-- ==== Sys2Proof/Safety.lean ====
section
/-! DEFINITION. The terms the claims use: what a step leaves alone, the invariant of the reachable states (spec 10_state.md
R33), the trace of a run, and a run without failure. -/

namespace Sys2Proof.Safety

open Sys2Proof.Machine

/-- The host side and the parameters are the same: no command writes the ports, the host's moves or the parameters. -/
abbrev SameSurroundings (s t : State) : Prop :=
  t.ports = s.ports ∧ t.pending = s.pending ∧ t.config = s.config

/-- The encoder's registers hold what R20 to R22 and R33 allow: while nothing is pending `enc_byte` holds 0. -/
abbrev EncLegal (e : EncRegs) : Prop := e.pend = false → e.byte = 0

/-- The decoder's registers hold what R20, R23 to R25 and R33 allow: pending values are alphabet values, entries at or
above the count hold 0, and the latch has codes exactly when it is set. -/
abbrev DecLegal (d : DecRegs) : Prop :=
  d.v0.toNat ≤ 44 ∧ d.v1.toNat ≤ 44 ∧
  (d.count = .zero → d.v0 = 0) ∧ (d.count ≠ .two → d.v1 = 0) ∧
  (d.fail = false → d.errStatus = 0 ∧ d.errDetail = 0) ∧
  (d.fail = true → d.errStatus = 1 ∨ d.errStatus = 2)

/-- The invariant of the reachable states (R33). -/
abbrev Legal (s : State) : Prop := EncLegal s.enc ∧ DecLegal s.dec

/-- A latched failure is one of the four the decoder raises, and the frozen buffer shows it (R191, R197): membership;
a third value that arrived on two; a trailing pair above 255; one value left. -/
abbrev LatchExplained (d : DecRegs) : Prop :=
  d.fail = true →
    (d.errStatus = 1 ∧ d.errDetail = 1) ∨
    (d.errStatus = 1 ∧ d.errDetail = 2 ∧ d.count = .two) ∨
    (d.errStatus = 1 ∧ d.errDetail = 3 ∧ d.count = .two ∧ d.v0.toNat + d.v1.toNat * 45 > 255) ∨
    (d.errStatus = 2 ∧ d.errDetail = 0 ∧ d.count = .one)

/-- The ports and the response of each of the next `k` steps, in order, up to a stop. -/
def trace : Nat → State → List (Ports × Response)
  | 0, _ => []
  | k + 1, s =>
    match step s with
    | .next t => (t.ports, t.rsp) :: trace k t
    | .fault _ => []
    | .refused _ => []

/-- The ports and the response of every step the host's moves make. -/
def fullTrace (s : State) : List (Ports × Response) := trace s.pending.length s

/-- The responses of every step the host's moves make. -/
def responses (s : State) : List Response := (fullTrace s).map Prod.snd

/-- The state after the next `k` steps, or the last state before a stop. -/
def after : Nat → State → State
  | 0, s => s
  | k + 1, s =>
    match step s with
    | .next t => after k t
    | .fault _ => s
    | .refused _ => s

/-- The state after every step the host's moves make. -/
def endState (s : State) : State := after s.pending.length s

/-- The units a host that takes every lane in order receives (R60, R80, R227). -/
def delivered (rs : List Response) : List Byte := rs.flatMap Response.units

/-- How a stream's responses end: with the first that is not OK, or with success. -/
def streamEnd : List Response → StreamEnd
  | [] => .success
  | r :: rs => if r.status = .ok then streamEnd rs else .failure r.status r.detail

/-- Every response is OK: a run on which nothing failed. -/
abbrev AllOk (rs : List Response) : Prop := ∀ r ∈ rs, r.status = .ok

/-- A command of the encoder (R72). -/
def isEncoder : Instr → Bool
  | .encReset => true
  | .encConsume _ => true
  | .encFinalize => true
  | .romValueOf _ => false
  | .romCharOf _ => false
  | .decReset => false
  | .decConsume _ => false
  | .decFinalize => false
  | .sizeDecMax => false
  | .sizeEnc => false

/-- A command of the decoder (R72). -/
def isDecoder : Instr → Bool
  | .decReset => true
  | .decConsume _ => true
  | .decFinalize => true
  | .romValueOf _ => false
  | .romCharOf _ => false
  | .encReset => false
  | .encConsume _ => false
  | .encFinalize => false
  | .sizeDecMax => false
  | .sizeEnc => false

/-- A command of the size calculator (R72), the only commands that read `len_in` (R76). -/
def isSize : Instr → Bool
  | .sizeDecMax => true
  | .sizeEnc => true
  | .encReset => false
  | .encConsume _ => false
  | .encFinalize => false
  | .romValueOf _ => false
  | .romCharOf _ => false
  | .decReset => false
  | .decConsume _ => false
  | .decFinalize => false

/-- A move that acts on the encoder: `rst`, or a command of the encoder. -/
def movesEncoder (p : Ports) : Bool :=
  p.rst || (match decode p.cmd with
    | .ok i => isEncoder i
    | .error _ => false)

/-- A move that acts on the decoder: `rst`, or a command of the decoder. -/
def movesDecoder (p : Ports) : Bool :=
  p.rst || (match decode p.cmd with
    | .ok i => isDecoder i
    | .error _ => false)

/-- A text that spells a unit in one of R82's forms: a quoted character, a decimal number or a `0x` hexadecimal number. -/
abbrev SpellsUnit (text : List Char) (u : Byte) : Prop :=
  (∃ c : Char, c.toNat = u.toNat ∧ text = ['\'', c, '\'']) ∨
  text = Nat.toDigits 10 u.toNat ∨
  text = '0' :: 'x' :: Nat.toDigits 16 u.toNat

end Sys2Proof.Safety
end

