-- ==== Sys2Proof/Certificates/Slice0/Obligations.lean ====
section
/-! DEFINITION. The statements for the provers, each with the rule of spec/ it formalises. -/

open Sys2Proof Sys2Proof.Machine Sys2Proof.Safety

/-! ### Encoding -/

/-- 30_encoding.md R71 to R75: no bit of a command word is dropped, in either direction. -/
def Obligations.DecodeAndEncodeAgree : Prop :=
  (∀ i : Instr, decode (encode i) = .ok i) ∧ (∀ (w : Word) (i : Instr), decode w = .ok i → encode i = w)

/-- R75: exactly the words it lists are illegal, and an illegal word changes no state and returns ILLEGAL_COMMAND with
every other response field 0, whatever the state. -/
def Obligations.IllegalWordsChangeNothing : Prop :=
  ∀ w : Word,
    let op := w.toNat / 4096
    let rsv := w.toNat / 256 % 16
    let data := w.toNat % 256
    let illegal := op ∈ [0x0, 0x3, 0x7, 0xB, 0xE, 0xF] ∨ rsv ≠ 0 ∨ (op ∈ [0x4, 0x6, 0x8, 0xA, 0xC, 0xD] ∧ data ≠ 0)
    ((∃ e, decode w = .error e) ↔ illegal) ∧
    (¬ illegal → ∃ i, decode w = .ok i) ∧
    (illegal → ∀ (s : State) (lenIn : Length) (rest : List Ports), s.pending = ⟨false, w, lenIn⟩ :: rest →
      step s = .next
        { s with
          ports := ⟨false, w, lenIn⟩
          pending := rest
          rsp := { status := .illegalCommand, detail := 0, n := 0, hit := false, out0 := 0, out1 := 0, out2 := 0,
                   result := 0 } })

/-- R74: the match and mask of each row, the words each row covers, and that no word is covered by two rows. -/
def Obligations.OpcodeTableMatchesDecoder : Prop :=
  opcodeTable =
    ([("ROM_VALUE_OF", 0x1, 0xFF00), ("ROM_CHAR_OF", 0x2, 0xFF00), ("ENC_RESET", 0x4, 0xFFFF),
      ("ENC_CONSUME", 0x5, 0xFF00), ("ENC_FINALIZE", 0x6, 0xFFFF), ("DEC_RESET", 0x8, 0xFFFF),
      ("DEC_CONSUME", 0x9, 0xFF00), ("DEC_FINALIZE", 0xA, 0xFFFF), ("SIZE_DEC_MAX", 0xC, 0xFFFF),
      ("SIZE_ENC", 0xD, 0xFFFF)] : List (String × Word × Word)).map (fun r => ⟨r.1, r.2.1 <<< 12, r.2.2⟩) ∧
  (∀ (w : Word), ∀ r ∈ opcodeTable, w &&& r.mask = r.pattern ↔ ∃ i, decode w = .ok i ∧ opcodeRow i = r) ∧
  opcodeTable.Pairwise (fun r r' => ∀ w : Word, ¬ (w &&& r.mask = r.pattern ∧ w &&& r'.mask = r'.pattern))

/-- Words written out in R82 and in 95_test_vectors.md decode to the commands they stand for there. -/
def Obligations.SpecWordsDecode : Prop :=
  decode 0x103A = .ok (.romValueOf 0x3A) ∧ decode 0x202C = .ok (.romCharOf 44) ∧ decode 0x4000 = .ok .encReset ∧
  decode 0x5041 = .ok (.encConsume 0x41) ∧ decode 0x6000 = .ok .encFinalize ∧ decode 0x8000 = .ok .decReset ∧
  decode 0x9020 = .ok (.decConsume 0x20) ∧ decode 0xA000 = .ok .decFinalize ∧ decode 0xC000 = .ok .sizeDecMax ∧
  decode 0xD000 = .ok .sizeEnc

/-! ### The step -/

/-- R11: a step whose command word decodes runs that command, on the state in which the word and the length operand are on
the ports and the move is taken from the host's moves (the model's own queue, log entry 1). -/
def Obligations.StepRunsDecodedCommand : Prop :=
  ∀ (s : State) (p : Ports) (rest : List Ports) (i : Instr),
    s.pending = p :: rest → p.rst = false → decode p.cmd = .ok i →
      step s = exec i { s with ports := p, pending := rest }

/-- The placement of one command word (log entry 5): the very next step runs exactly that command. -/
def Obligations.PlacedWordRunsNext : Prop :=
  ∀ (s : State) (i : Instr),
    step (s.withFetchWord 16 (encode i).toNat) = exec i { s with ports := ⟨false, encode i, s.ports.lenIn⟩ } ∧
    decodeTableWord 16 (encode i).toNat = some i

/-- R11, R232: every host move, in every state, is answered; a step is taken only by a host move (the model's choice, log
entry 1), and it changes neither the moves after it nor the parameters. -/
def Obligations.EveryHostMoveIsAnswered : Prop :=
  (∀ (s : State) (p : Ports) (rest : List Ports), s.pending = p :: rest →
    ∃ t, step s = .next t ∧ t.ports = p ∧ t.pending = rest ∧ t.config = s.config) ∧
  (∀ s : State, s.pending = [] → step s = .fault .noHostMove)

/-- R11, R60: a run takes the host's moves one a step and to the last, from every state. -/
def Obligations.RunsReachTheLastMove : Prop :=
  ∀ s : State, ∃ t : State, Host.Core.run core s.pending.length s = .next t ∧ t.pending = [] ∧ t.config = s.config ∧
    (fullTrace s).map Prod.fst = s.pending ∧ endState s = t

/-- R195: an illegal word is not latched; the next command executes as if it had not been there. -/
def Obligations.IllegalWordLeavesNextCommand : Prop :=
  ∀ (s : State) (w : Word) (e : Illegal) (lenIn : Length) (p : Ports) (rest : List Ports),
    decode w = .error e →
      ∃ u t, step (s.facing (⟨false, w, lenIn⟩ :: p :: rest)) = .next u ∧ u.enc = s.enc ∧ u.dec = s.dec ∧
        u.rsp.status = .illegalCommand ∧ step u = .next t ∧ step (s.facing (p :: rest)) = .next t

/-! ### The response -/

/-- R77: the fields of the response word on the `rsp` port, and that the word determines them all. -/
def Obligations.ResponseWordLayout : Prop :=
  (∀ s : State,
    (portRsp s).extractLsb' 0 3 = s.rsp.status.code ∧ (portRsp s).extractLsb' 3 2 = s.rsp.detail ∧
    (portRsp s).extractLsb' 5 2 = s.rsp.n ∧ (portRsp s).getLsbD 7 = s.rsp.hit ∧
    (portRsp s).extractLsb' 8 8 = s.rsp.out0 ∧ (portRsp s).extractLsb' 16 8 = s.rsp.out1 ∧
    (portRsp s).extractLsb' 24 8 = s.rsp.out2 ∧ (portRsp s).extractLsb' 32 32 = s.rsp.result) ∧
  (∀ r r' : Response, r.word = r'.word → r = r')

/-- R78: the code of each status, who raises it, and that codes 6 and 7 are never on the port. -/
def Obligations.StatusRaisedByItsCommands : Prop :=
  [Status.ok, .malformedEncoding, .truncatedInput, .sizeExceedsMaximum, .instanceFailed, .illegalCommand].map
      Status.code = [0, 1, 2, 3, 4, 5] ∧
  ∀ (s t : State) (p : Ports) (rest : List Ports), s.pending = p :: rest → step s = .next t →
    (portRsp t).extractLsb' 0 3 ≠ 6 ∧ (portRsp t).extractLsb' 0 3 ≠ 7 ∧
    (t.rsp.status = .malformedEncoding →
      p.rst = false ∧ ((∃ c, decode p.cmd = .ok (.decConsume c)) ∨ decode p.cmd = .ok .decFinalize)) ∧
    (t.rsp.status = .truncatedInput → p.rst = false ∧ decode p.cmd = .ok .decFinalize) ∧
    (t.rsp.status = .sizeExceedsMaximum → p.rst = false ∧ decode p.cmd = .ok .sizeEnc) ∧
    (t.rsp.status = .instanceFailed →
      p.rst = false ∧ s.dec.fail = true ∧
        ((∃ c, decode p.cmd = .ok (.decConsume c)) ∨ decode p.cmd = .ok .decFinalize)) ∧
    (t.rsp.status = .illegalCommand → p.rst = false ∧ ∃ e, decode p.cmd = .error e)

/-- R79: with MALFORMED_ENCODING the detail names which of the three causes applied, INSTANCE_FAILED repeats the latched
detail, and with every other status the detail is 0. -/
def Obligations.DetailNamesTheCause : Prop :=
  ∀ (i : Instr) (s t : State), exec i s = .next t →
    (t.rsp.status = .malformedEncoding →
      (t.rsp.detail = 1 ∧ ∃ c, i = .decConsume c ∧ romValue c = none) ∨
      (t.rsp.detail = 2 ∧ ∃ c v, i = .decConsume c ∧ romValue c = some v ∧ s.dec.count = .two ∧
        s.dec.v0.toNat + s.dec.v1.toNat * 45 + v.toNat * 2025 > 65535) ∨
      (t.rsp.detail = 3 ∧ i = .decFinalize ∧ s.dec.count = .two ∧ s.dec.v0.toNat + s.dec.v1.toNat * 45 > 255)) ∧
    (t.rsp.status = .instanceFailed → t.rsp.detail = s.dec.errDetail) ∧
    (t.rsp.status ≠ .malformedEncoding → t.rsp.status ≠ .instanceFailed → t.rsp.detail = 0)

/-- R80: the lanes take the emitted units in order, lanes at or above `n` hold 0, and how many units each command
delivers. -/
def Obligations.OutputLanesInOrder : Prop :=
  (∀ a b c : Byte,
    Response.ok.emit a = { Response.zero with n := 1, out0 := a } ∧
    (Response.ok.emit a).emit b = { Response.zero with n := 2, out0 := a, out1 := b } ∧
    ((Response.ok.emit a).emit b).emit c = { Response.zero with n := 3, out0 := a, out1 := b, out2 := c }) ∧
  ∀ (i : Instr) (s t : State), exec i s = .next t →
    (t.rsp.n.toNat ≤ 0 → t.rsp.out0 = 0) ∧ (t.rsp.n.toNat ≤ 1 → t.rsp.out1 = 0) ∧ (t.rsp.n.toNat ≤ 2 → t.rsp.out2 = 0) ∧
    match i with
    | .encConsume _ => t.rsp.n = 0 ∨ t.rsp.n = 3
    | .encFinalize => t.rsp.n = 0 ∨ t.rsp.n = 2
    | .decConsume _ => t.rsp.n = 0 ∨ t.rsp.n = 2
    | .decFinalize => t.rsp.n = 0 ∨ t.rsp.n = 1
    | .romValueOf _ | .romCharOf _ | .encReset | .decReset | .sizeDecMax | .sizeEnc => t.rsp.n = 0

/-- R81: a response field that the executed command's rule does not set is 0, and the OK response of ENC_RESET is the
all-zero word. -/
def Obligations.UnsetResponseFieldsAreZero : Prop :=
  (∀ (i : Instr) (s t : State), exec i s = .next t →
    (t.rsp.hit = true → ∃ c, i = .romValueOf c ∨ i = .romCharOf c) ∧
    (t.rsp.result ≠ 0 → (∃ c, i = .romValueOf c ∨ i = .romCharOf c) ∨ isSize i = true ∨ t.rsp.status = .instanceFailed) ∧
    (t.rsp.detail ≠ 0 → ((∃ c, i = .decConsume c) ∨ i = .decFinalize) ∧ t.rsp.status ≠ .ok) ∧
    (t.rsp.n ≠ 0 →
      ((∃ b, i = .encConsume b) ∨ i = .encFinalize ∨ (∃ c, i = .decConsume c) ∨ i = .decFinalize) ∧
      t.rsp.status = .ok ∧ t.rsp.detail = 0 ∧ t.rsp.hit = false ∧ t.rsp.result = 0) ∧
    (t.rsp.n.toNat ≤ 0 → t.rsp.out0 = 0) ∧ (t.rsp.n.toNat ≤ 1 → t.rsp.out1 = 0) ∧
    (t.rsp.n.toNat ≤ 2 → t.rsp.out2 = 0)) ∧
  (∀ s : State, ∃ t, exec .encReset s = .next t ∧ portRsp t = 0)

/-- R76: two hosts that drive the same words and resets, and the same `len_in` at the size commands, get the same responses
and leave the same registers, whatever they drive on `len_in` at the other steps. -/
def Obligations.LenInReadOnlyBySizeCommands : Prop :=
  ∀ (s : State) (ps qs : List Ports),
    List.Forall₂ (fun p q : Ports => q.rst = p.rst ∧ q.cmd = p.cmd ∧
      (p.rst = false → (decode p.cmd = .ok .sizeDecMax ∨ decode p.cmd = .ok .sizeEnc) → q.lenIn = p.lenIn)) ps qs →
    responses (s.facing qs) = responses (s.facing ps) ∧
    (endState (s.facing qs)).enc = (endState (s.facing ps)).enc ∧
    (endState (s.facing qs)).dec = (endState (s.facing ps)).dec

/-! ### base45_alphabet_rom -/

/-- R100: the alphabet string, at its US-ASCII codes (R7). -/
def Obligations.AlphabetIsTheString : Prop :=
  charRom = "0123456789ABCDEFGHIJKLMNOPQRSTUVWXYZ $%*+-./:".toList.map (fun c => BitVec.ofNat 8 c.toNat) ∧
  charRom.length = 45 ∧ charRom.Nodup ∧ charRom[36]? = some 0x20 ∧ ∀ v : Fin 45, charRom[v.val]? = some (romChar v)

/-- R101: the contents of `CHAR_ROM` in closed form. -/
def Obligations.CharRomContents : Prop :=
  ∀ v : Fin 45,
    (v.val ≤ 9 → (romChar v).toNat = 0x30 + v.val) ∧
    (10 ≤ v.val → v.val ≤ 35 → (romChar v).toNat = 0x41 + (v.val - 10)) ∧
    (36 ≤ v.val →
      [0x20, 0x24, 0x25, 0x2A, 0x2B, 0x2D, 0x2E, 0x2F, 0x3A][v.val - 36]? = some (romChar v).toNat)

/-- R102: the contents of `VALUE_ROM` are the inverse of `CHAR_ROM`; every other code has the entry 0; and the codes the
rule names as rejected miss. -/
def Obligations.ValueRomContents : Prop :=
  (∀ v : Fin 45, valueRom (romChar v) = 1#1 ++ BitVec.ofNat 6 v.val) ∧
  (∀ c : Byte, (∀ v : Fin 45, romChar v ≠ c) → valueRom c = 0) ∧
  ((List.range 256).filter (fun c => romValue (BitVec.ofNat 8 c) = none)).length = 211 ∧
  (∀ c : Byte, c.toNat ∈ [0x09, 0x0A, 0x0B, 0x0C, 0x0D, 0x3D] ∨ (0x61 ≤ c.toNat ∧ c.toNat ≤ 0x7A) ∨ 0x80 ≤ c.toNat →
    romValue c = none) ∧
  romValue 0x20 = some 36

/-- R107: the two tables are inverse bijections between the values and the alphabet codes. -/
def Obligations.RomTablesAreInverse : Prop :=
  (∀ v : Fin 45, romValue (romChar v) = some (BitVec.ofNat 6 v.val)) ∧
  (∀ (c : Byte) (v : Value), romValue c = some v → ∃ h : v.toNat < 45, romChar ⟨v.toNat, h⟩ = c)

/-- R103: ROM_VALUE_OF, its word, its result on a code in the alphabet and on any other, its corner cases and example. -/
def Obligations.RomValueOfResult : Prop :=
  (∀ (c : Byte) (s : State),
    decode (0x1000 ||| c.setWidth 16) = .ok (.romValueOf c) ∧
    (∀ v, romValue c = some v →
      exec (.romValueOf c) s = .next { s with rsp := { Response.zero with hit := true, result := v.setWidth 32 } }) ∧
    (romValue c = none → exec (.romValueOf c) s = .next { s with rsp := Response.zero })) ∧
  romValue 0x20 = some 36 ∧ romValue 0x00 = none ∧ romValue 0x3D = none ∧
  (∀ c : Byte, (0x61 ≤ c.toNat ∧ c.toNat ≤ 0x7A) ∨ 0x80 ≤ c.toNat ∨ c.toNat < 0x20 → romValue c = none) ∧
  decode 0x103A = .ok (.romValueOf 0x3A) ∧ romValue 0x3A = some 44

/-- R104: ROM_CHAR_OF, its word, its result in and out of range, its corner cases and example. -/
def Obligations.RomCharOfResult : Prop :=
  (∀ (v : Byte) (s : State),
    decode (0x2000 ||| v.setWidth 16) = .ok (.romCharOf v) ∧
    (∀ k : Fin 45, k.val = v.toNat →
      exec (.romCharOf v) s = .next { s with rsp := { Response.zero with hit := true, result := (romChar k).setWidth 32 } }) ∧
    (45 ≤ v.toNat → exec (.romCharOf v) s = .next { s with rsp := Response.zero })) ∧
  romChar 44 = 0x3A ∧ romChar 36 = 0x20 ∧
  decode 0x2026 = .ok (.romCharOf 38) ∧ romChar 38 = 0x25

/-! ### base45_encode_fsm -/

/-- R120: ENC_RESET, from every state: the word, the registers, the all-zero response. -/
def Obligations.EncResetResult : Prop :=
  decode 0x4000 = .ok .encReset ∧
  ∀ s : State, exec .encReset s = .next { s with enc := ⟨false, 0⟩, rsp := Response.zero } ∧ Response.zero.word = 0

/-- R121: ENC_CONSUME in both encoder states, with the group's value and digits computed on natural numbers, and the
rule's corner cases and example. -/
def Obligations.EncConsumeResult : Prop :=
  (∀ (b : Byte) (s : State),
    decode (0x5000 ||| b.setWidth 16) = .ok (.encConsume b) ∧
    (s.enc.pend = false → exec (.encConsume b) s = .next { s with enc := ⟨true, b⟩, rsp := Response.zero }) ∧
    (s.enc.pend = true →
      let value := s.enc.byte.toNat * 256 + b.toNat
      exec (.encConsume b) s = .next
        { s with
          enc := ⟨false, 0⟩
          rsp := { Response.zero with
            n := 3
            out0 := romChar (Fin.ofNat 45 value)
            out1 := romChar (Fin.ofNat 45 (value / 45))
            out2 := romChar (Fin.ofNat 45 (value / 45 / 45)) } } ∧
      value / 2025 % 45 = value / 2025 ∧ value / 2025 ≤ 32)) ∧
  (∀ s : State,
    (s.enc = ⟨true, 0x00⟩ → ∃ t, exec (.encConsume 0x00) s = .next t ∧ t.rsp.units = [0x30, 0x30, 0x30]) ∧
    (s.enc = ⟨true, 0xFF⟩ → ∃ t, exec (.encConsume 0xFF) s = .next t ∧ t.rsp.units = [0x46, 0x47, 0x57]) ∧
    (s.enc = ⟨true, 0x6C⟩ → ∃ t, exec (.encConsume 0x6C) s = .next t ∧ t.rsp.units = [0x20, 0x56, 0x44]) ∧
    (s.enc = ⟨true, 0x41⟩ → ∃ t, exec (.encConsume 0x42) s = .next t ∧ t.rsp.units = [0x42, 0x42, 0x38]))

/-- R122: ENC_FINALIZE in both encoder states, and the rule's corner cases and example. -/
def Obligations.EncFinalizeResult : Prop :=
  decode 0x6000 = .ok .encFinalize ∧
  (∀ s : State,
    (s.enc.pend = false → exec .encFinalize s = .next { s with rsp := Response.zero }) ∧
    (s.enc.pend = true →
      let value := s.enc.byte.toNat
      exec .encFinalize s = .next
        { s with
          enc := ⟨false, 0⟩
          rsp := { Response.zero with
            n := 2
            out0 := romChar (Fin.ofNat 45 value)
            out1 := romChar (Fin.ofNat 45 (value / 45)) } } ∧
      value / 45 % 45 = value / 45 ∧ value / 45 ≤ 5) ∧
    (s.enc = ⟨true, 0x00⟩ → ∃ t, exec .encFinalize s = .next t ∧ t.rsp.units = [0x30, 0x30]) ∧
    (s.enc = ⟨true, 0xFF⟩ → ∃ t, exec .encFinalize s = .next t ∧ t.rsp.units = [0x55, 0x35]) ∧
    (s.enc = ⟨true, 0x21⟩ → ∃ t, exec .encFinalize s = .next t ∧ t.rsp.units = [0x58, 0x30]) ∧
    (∀ t u, exec .encFinalize s = .next t → exec .encFinalize t = .next u → u = { t with rsp := Response.zero }))

/-- R123: the digits of a two-byte group and of a trailing byte, and their tighter bounds. -/
def Obligations.EncoderDigitBounds : Prop :=
  ∀ b0 b : Byte,
    bytePairValue b0 b < 65536 ∧ bytePairValue b0 b / 45 / 45 ≤ 32 ∧
    bytePairValue b0 b / 45 / 45 % 45 = bytePairValue b0 b / 45 / 45 ∧
    trailingByteValue b / 45 ≤ 5 ∧ trailingByteValue b / 45 % 45 = trailingByteValue b / 45 ∧
    (∀ value : Nat, ∃ k : Fin 45, k.val = value % 45 ∧ digitChar value = romChar k)

/-- R126: no encoder command, in any state, returns a status other than OK or touches the decoder's latch; the group sizes
hold every value. -/
def Obligations.EncoderNeverFails : Prop :=
  (∀ (i : Instr) (s : State), isEncoder i = true →
    ∃ t, exec i s = .next t ∧ t.rsp.status = .ok ∧ t.rsp.detail = 0 ∧ t.dec = s.dec ∧ SameSurroundings s t) ∧
  45 ^ 3 > 65536 ∧ 45 ^ 2 > 256

/-- R124: the stream function of the encoder: from any state, ENC_STREAM of any bytes answers OK throughout, delivers
`Encode` of the bytes and ends `Empty`. -/
def Obligations.EncodeStreamOutput : Prop :=
  encodeBytes [] = [] ∧
  ∀ (s : State) (lenIn : Length) (bytes : List Byte),
    let run := s.facing (commandMoves lenIn (encStream bytes))
    AllOk (responses run) ∧ delivered (responses run) = encodeBytes bytes ∧ (endState run).enc = ⟨false, 0⟩ ∧
    (endState run).dec = s.dec

/-- R125: the length law of the encoder's stream, and that SIZE_ENC answers it whenever it does not fail. -/
def Obligations.EncodedLengthLaw : Prop :=
  ∀ (s : State) (lenIn : Length) (bytes : List Byte),
    let out := delivered (responses (s.facing (commandMoves lenIn (encStream bytes))))
    out.length = bytes.length / 2 * 3 + bytes.length % 2 * 2 ∧
    ∀ q t : State, q.ports.lenIn.toNat = bytes.length → exec .sizeEnc q = .next t → t.rsp.status = .ok →
      t.rsp.result.toNat = out.length

/-! ### base45_decode_fsm -/

/-- R140: DEC_RESET, from every state, failed or not: the word, the registers, the all-zero response; and it is the only
command that leaves the failed state. -/
def Obligations.DecResetResult : Prop :=
  decode 0x8000 = .ok .decReset ∧ Response.zero.word = 0 ∧
  (∀ s : State, exec .decReset s = .next { s with dec := ⟨.zero, 0, 0, false, 0, 0⟩, rsp := Response.zero }) ∧
  (∀ (i : Instr) (s t : State), s.dec.fail = true → exec i s = .next t → t.dec.fail = false → i = .decReset)

/-- R141: DEC_CONSUME, arm by arm in the rule's order, and the rule's corner cases and example. -/
def Obligations.DecConsumeResult : Prop :=
  (∀ (c : Byte) (s : State),
    decode (0x9000 ||| c.setWidth 16) = .ok (.decConsume c) ∧
    (s.dec.fail = true →
      exec (.decConsume c) s = .next
        { s with rsp := { Response.zero with
            status := .instanceFailed, detail := s.dec.errDetail, result := s.dec.errStatus.setWidth 32 } }) ∧
    (s.dec.fail = false → romValue c = none →
      exec (.decConsume c) s = .next
        { s with
          dec := { s.dec with fail := true, errStatus := 1, errDetail := 1 }
          rsp := { Response.zero with status := .malformedEncoding, detail := 1 } }) ∧
    (∀ v, s.dec.fail = false → romValue c = some v →
      (s.dec.count = .zero →
        exec (.decConsume c) s = .next { s with dec := { s.dec with v0 := v, count := .one }, rsp := Response.zero }) ∧
      (s.dec.count = .one →
        exec (.decConsume c) s = .next { s with dec := { s.dec with v1 := v, count := .two }, rsp := Response.zero }) ∧
      (s.dec.count = .two →
        let triple := s.dec.v0.toNat + s.dec.v1.toNat * 45 + v.toNat * 2025
        (triple ≤ 65535 →
          exec (.decConsume c) s = .next
            { s with
              dec := { s.dec with count := .zero, v0 := 0, v1 := 0 }
              rsp := { Response.zero with
                n := 2, out0 := BitVec.ofNat 8 (triple / 256), out1 := BitVec.ofNat 8 (triple % 256) } }) ∧
        (65535 < triple →
          exec (.decConsume c) s = .next
            { s with
              dec := { s.dec with fail := true, errStatus := 1, errDetail := 2 }
              rsp := { Response.zero with status := .malformedEncoding, detail := 2 } })))) ∧
  romValue 0x20 = some 36 ∧ romValue 0x0A = none ∧ romValue 0x0D = none ∧ romValue 0x09 = none ∧ romValue 0x3D = none ∧
  (∀ c : Byte, 0x61 ≤ c.toNat → c.toNat ≤ 0x7A → romValue c = none) ∧
  (∀ s : State, s.dec.fail = false → s.dec.count = .two →
    (s.dec.v0 = 15 → s.dec.v1 = 16 → ∃ t, exec (.decConsume 0x57) s = .next t ∧ t.rsp.units = [0xFF, 0xFF]) ∧
    (s.dec.v0 = 16 → s.dec.v1 = 16 →
      ∃ t, exec (.decConsume 0x57) s = .next t ∧ t.rsp.status = .malformedEncoding ∧ t.rsp.detail = 2) ∧
    (s.dec.v0 = 44 → s.dec.v1 = 44 →
      ∃ t, exec (.decConsume 0x3A) s = .next t ∧ t.rsp.status = .malformedEncoding ∧ t.rsp.detail = 2) ∧
    (s.dec.v0 = 11 → s.dec.v1 = 11 → ∃ t, exec (.decConsume 0x38) s = .next t ∧ t.rsp.units = [0x41, 0x42]))

/-- R143: DEC_FINALIZE, arm by arm in the rule's order, and the rule's corner cases and example. -/
def Obligations.DecFinalizeResult : Prop :=
  decode 0xA000 = .ok .decFinalize ∧
  ∀ s : State,
    (s.dec.fail = true →
      exec .decFinalize s = .next
        { s with rsp := { Response.zero with
            status := .instanceFailed, detail := s.dec.errDetail, result := s.dec.errStatus.setWidth 32 } }) ∧
    (s.dec.fail = false → s.dec.count = .zero → exec .decFinalize s = .next { s with rsp := Response.zero }) ∧
    (s.dec.fail = false → s.dec.count = .one →
      exec .decFinalize s = .next
        { s with
          dec := { s.dec with fail := true, errStatus := 2, errDetail := 0 }
          rsp := { Response.zero with status := .truncatedInput } }) ∧
    (s.dec.fail = false → s.dec.count = .two →
      let pair := s.dec.v0.toNat + s.dec.v1.toNat * 45
      (pair ≤ 255 →
        exec .decFinalize s = .next
          { s with
            dec := { s.dec with count := .zero, v0 := 0, v1 := 0 }
            rsp := { Response.zero with n := 1, out0 := BitVec.ofNat 8 pair } }) ∧
      (255 < pair →
        exec .decFinalize s = .next
          { s with
            dec := { s.dec with fail := true, errStatus := 1, errDetail := 3 }
            rsp := { Response.zero with status := .malformedEncoding, detail := 3 } }) ∧
      (s.dec.v0 = 30 → s.dec.v1 = 5 → ∃ t, exec .decFinalize s = .next t ∧ t.rsp.units = [0xFF]) ∧
      (s.dec.v0 = 31 → s.dec.v1 = 5 → ∃ t, exec .decFinalize s = .next t ∧ t.rsp.detail = 3) ∧
      (s.dec.v0 = 44 → s.dec.v1 = 44 → ∃ t, exec .decFinalize s = .next t ∧ t.rsp.detail = 3) ∧
      (s.dec.v0 = 0 → s.dec.v1 = 0 → ∃ t, exec .decFinalize s = .next t ∧ t.rsp.units = [0x00]) ∧
      (s.dec.v0 = 33 → s.dec.v1 = 0 → ∃ t, exec .decFinalize s = .next t ∧ t.rsp.units = [0x21])) ∧
    (∀ t u, exec .decFinalize s = .next t → t.rsp.status = .ok → exec .decFinalize t = .next u →
      u = { t with rsp := Response.zero })

/-- R197: entering the failed state. The state after a failing command is the state before it plus the latch. -/
def Obligations.FailureEntryIsPrecise : Prop :=
  ∀ (i : Instr) (s t : State), exec i s = .next t →
    (t.rsp.status = .malformedEncoding ∨ t.rsp.status = .truncatedInput) →
    (i = .decFinalize ∨ ∃ c, i = .decConsume c) ∧
    t = { s with
      dec := { s.dec with fail := true, errStatus := t.rsp.status.code, errDetail := t.rsp.detail }
      rsp := { Response.zero with status := t.rsp.status, detail := t.rsp.detail } }

/-- R145: a failed decoder only reports, and only DEC_RESET or `rst` leaves the failed state. -/
def Obligations.FailedDecoderOnlyReports : Prop :=
  (∀ (i : Instr) (s : State), s.dec.fail = true → (i = .decFinalize ∨ ∃ c, i = .decConsume c) →
    exec i s = .next
      { s with rsp := { Response.zero with
          status := .instanceFailed, detail := s.dec.errDetail, result := s.dec.errStatus.setWidth 32 } }) ∧
  (∀ (s t : State) (p : Ports) (rest : List Ports), s.dec.fail = true → s.pending = p :: rest → step s = .next t →
    t.dec.fail = false → p.rst = true ∨ decode p.cmd = .ok .decReset)

/-- R200: the ways out of the failed state lead to the decoder's reset state; on any run without them the decoder keeps
every register, and every DEC_CONSUME and DEC_FINALIZE reports the first failure. -/
def Obligations.FailureLastsUntilReset : Prop :=
  (∀ (s t : State) (p : Ports) (rest : List Ports), s.pending = p :: rest →
    (p.rst = true ∨ decode p.cmd = .ok .decReset) → step s = .next t → t.dec = ⟨.zero, 0, 0, false, 0, 0⟩) ∧
  (∀ (s : State) (moves : List Ports), s.dec.fail = true →
    (∀ p ∈ moves, p.rst = false ∧ decode p.cmd ≠ .ok .decReset) →
    (endState (s.facing moves)).dec = s.dec ∧
    ∀ pr ∈ fullTrace (s.facing moves),
      (decode pr.1.cmd = .ok .decFinalize ∨ ∃ c, decode pr.1.cmd = .ok (.decConsume c)) →
      pr.2 = { Response.zero with
        status := .instanceFailed, detail := s.dec.errDetail, result := s.dec.errStatus.setWidth 32 })

/-- R196, R58: a step whose response is not OK delivers no unit and leaves every lane 0. -/
def Obligations.FailureDeliversNothing : Prop :=
  ∀ s t : State, step s = .next t → t.rsp.status ≠ .ok →
    t.rsp.units = [] ∧ t.rsp.n = 0 ∧ t.rsp.out0 = 0 ∧ t.rsp.out1 = 0 ∧ t.rsp.out2 = 0 ∧ t.rsp.hit = false ∧
    t.enc = s.enc ∧ t.dec.count = s.dec.count ∧ t.dec.v0 = s.dec.v0 ∧ t.dec.v1 = s.dec.v1

/-- R199: which failure a step reports when several could apply. -/
def Obligations.FailurePriority : Prop :=
  ∀ (s : State) (p : Ports) (rest : List Ports), s.pending = p :: rest → p.rst = false →
    ∃ t, step s = .next t ∧
      (∀ e, decode p.cmd = .error e → t.rsp.status = .illegalCommand) ∧
      (∀ c, decode p.cmd = .ok (.decConsume c) →
        (s.dec.fail = true → t.rsp.status = .instanceFailed) ∧
        (s.dec.fail = false → romValue c = none → t.rsp.status = .malformedEncoding ∧ t.rsp.detail = 1) ∧
        (∀ v, s.dec.fail = false → romValue c = some v →
          (t.rsp.status ≠ .ok ↔
            s.dec.count = .two ∧ s.dec.v0.toNat + s.dec.v1.toNat * 45 + v.toNat * 2025 > 65535) ∧
          (t.rsp.status ≠ .ok → t.rsp.status = .malformedEncoding ∧ t.rsp.detail = 2))) ∧
      (decode p.cmd = .ok .decFinalize →
        (s.dec.fail = true → t.rsp.status = .instanceFailed) ∧
        (s.dec.fail = false →
          (s.dec.count = .zero → t.rsp.status = .ok) ∧ (s.dec.count = .one → t.rsp.status = .truncatedInput) ∧
          (s.dec.count = .two → t.rsp.status = .ok ∨ (t.rsp.status = .malformedEncoding ∧ t.rsp.detail = 3))))

/-- R193: TRUNCATED_INPUT arises only at DEC_FINALIZE with exactly one pending value; and a decode stream of length
1 mod 3 fails with it unless a MALFORMED_ENCODING comes first. -/
def Obligations.TruncatedOnlyAtFinalize : Prop :=
  (∀ (i : Instr) (s t : State), exec i s = .next t →
    (t.rsp.status = .truncatedInput ↔ i = .decFinalize ∧ s.dec.fail = false ∧ s.dec.count = .one)) ∧
  (∀ (s : State) (lenIn : Length) (codes : List Byte), codes.length % 3 = 1 →
    let stream := streamEnd (responses (s.facing (commandMoves lenIn (decStream codes))))
    (∀ d, stream ≠ .failure .malformedEncoding d) → stream = .failure .truncatedInput 0)

/-- R146: a group's range is checked only when the group is complete; its two examples. -/
def Obligations.GroupCheckedOnlyWhenComplete : Prop :=
  (∀ (c : Byte) (v : Value) (s : State), s.dec.fail = false → romValue c = some v → s.dec.count ≠ .two →
    ∃ t, exec (.decConsume c) s = .next t ∧ t.rsp = Response.zero ∧ t.dec.fail = false) ∧
  (∀ (s : State) (lenIn : Length),
    let run := fun is : List Instr => responses (s.facing (commandMoves lenIn is))
    streamEnd (run [.decReset, .decConsume 0x47, .decConsume 0x47, .decFinalize]) = .failure .malformedEncoding 3 ∧
    streamEnd (run [.decReset, .decConsume 0x47, .decConsume 0x47, .decConsume 0x57]) = .failure .malformedEncoding 2)

/-- R147: the bounds of the decoder's datapath on alphabet values, reached at the largest, and that an accepted triple's
bytes, and an accepted pair's byte, lose no bit. -/
def Obligations.DecoderDatapathBounds : Prop :=
  (∀ v0 v1 v : Value, v0.toNat ≤ 44 → v1.toNat ≤ 44 → v.toNat ≤ 44 →
    tripleValue v0 v1 v ≤ 91124 ∧ tripleValue v0 v1 v < 2 ^ 17 ∧ pairValue v0 v1 ≤ 2024 ∧ pairValue v0 v1 < 2 ^ 11 ∧
    (tripleValue v0 v1 v ≤ 65535 →
      (tripleHigh (tripleValue v0 v1 v)).toNat * 256 + (tripleLow (tripleValue v0 v1 v)).toNat = tripleValue v0 v1 v) ∧
    (pairValue v0 v1 ≤ 255 → (BitVec.ofNat 8 (pairValue v0 v1)).toNat = pairValue v0 v1)) ∧
  tripleValue 44 44 44 = 91124 ∧ pairValue 44 44 = 2024

/-- R148: the stream function of the decoder: from any state, DEC_STREAM of any codes ends as `Decode` says, with the first
failure the rule gives, and delivers the bytes of the complete triples before it. -/
def Obligations.DecodeStreamOutcome : Prop :=
  decodeCodes [] = ([], .success) ∧
  ∀ (s : State) (lenIn : Length) (codes : List Byte),
    let run := s.facing (commandMoves lenIn (decStream codes))
    delivered (responses run) = (decodeCodes codes).1 ∧ streamEnd (responses run) = (decodeCodes codes).2 ∧
    (endState run).enc = s.enc ∧
    ((decodeCodes codes).2 = .success → (endState run).dec = ⟨.zero, 0, 0, false, 0, 0⟩)

/-- R149: decoding what the encoder delivers never fails and gives the bytes back; and encoding what a successful decoding
delivers gives the characters back. -/
def Obligations.StreamRoundTrip : Prop :=
  ∀ (s s' : State) (lenIn : Length),
    let encodeRun := fun bytes : List Byte => responses (s.facing (commandMoves lenIn (encStream bytes)))
    let decodeRun := fun codes : List Byte => responses (s'.facing (commandMoves lenIn (decStream codes)))
    (∀ bytes : List Byte,
      AllOk (decodeRun (delivered (encodeRun bytes))) ∧ delivered (decodeRun (delivered (encodeRun bytes))) = bytes) ∧
    (∀ codes : List Byte, AllOk (decodeRun codes) → delivered (encodeRun (delivered (decodeRun codes))) = codes)

/-! ### size_calc_combinatorial -/

/-- R170: SIZE_DEC_MAX for every length, exactly, and its corner cases and example. -/
def Obligations.SizeDecMaxResult : Prop :=
  decode 0xC000 = .ok .sizeDecMax ∧
  (∀ s : State,
    ∃ size : Length, exec .sizeDecMax s = .next { s with rsp := { Response.zero with result := size } } ∧
      size.toNat = (s.ports.lenIn.toNat + 2) / 3 * 2 ∧ size.toNat ≤ 2863311530) ∧
  [0, 1, 2, 3, 11, 2147483647, 4294967295].map decMaxSize = [0, 2, 2, 2, 8, 1431655766, 2863311530]

/-- R171: SIZE_ENC for every length and every `MAX_LEN`: its exact result up to the threshold, its failure above it, and
its corner cases and example. -/
def Obligations.SizeEncResult : Prop :=
  decode 0xD000 = .ok .sizeEnc ∧
  (∀ s : State,
    let n := s.ports.lenIn.toNat
    let threshold := s.config.maxLen / 3 * 2
    (n ≤ threshold →
      ∃ size : Length, exec .sizeEnc s = .next { s with rsp := { Response.zero with result := size } } ∧
        size.toNat = n / 2 * 3 + n % 2 * 2) ∧
    (threshold < n →
      exec .sizeEnc s = .next { s with rsp := { Response.zero with status := .sizeExceedsMaximum } }) ∧
    (s.config = Config.standard →
      threshold = 1431655764 ∧
      (n = 1431655764 → ∃ t, exec .sizeEnc s = .next t ∧ t.rsp.result = 2147483646) ∧
      (1431655765 ≤ n → ∃ t, exec .sizeEnc s = .next t ∧ t.rsp.status = .sizeExceedsMaximum) ∧
      (n ∈ [0, 1, 2, 3, 7] →
        ∃ t, exec .sizeEnc s = .next t ∧ (n, t.rsp.result) ∈ [(0, 0), (1, 2), (2, 3), (3, 5), (7, 11)])))

/-- R172: the combinatorial outputs, from `len_in` alone, and their agreement with the commands. -/
def Obligations.CombinatorialOutputsAgree : Prop :=
  ∀ s : State,
    (portDecMaxSize s).toNat = (s.ports.lenIn.toNat + 2) / 3 * 2 ∧
    (portEncOvf s = true ↔ s.ports.lenIn.toNat > s.config.maxLen / 3 * 2) ∧
    (portEncOvf s = true → portEncSize s = 0) ∧
    (portEncOvf s = false → (portEncSize s).toNat = s.ports.lenIn.toNat / 2 * 3 + s.ports.lenIn.toNat % 2 * 2) ∧
    (∀ t, exec .sizeDecMax s = .next t → t.rsp.result = portDecMaxSize s) ∧
    (∀ t, exec .sizeEnc s = .next t →
      t.rsp.result = portEncSize s ∧ (portEncOvf s = true ↔ t.rsp.status = .sizeExceedsMaximum))

/-- R173: an accepted size is at most `MAX_LEN`; the threshold is exact unless `MAX_LEN % 3 = 2`, and then it rejects one
size that would fit. -/
def Obligations.SizeEncStaysWithinMaxLen : Prop :=
  (∀ s t : State, exec .sizeEnc s = .next t → t.rsp.status = .ok → t.rsp.result.toNat ≤ s.config.maxLen) ∧
  (∀ c : Config,
    (c.maxLen % 3 ≠ 2 → c.maxLen < encExactSize (encThreshold c.maxLen + 1)) ∧
    (c.maxLen % 3 = 2 → encExactSize (encThreshold c.maxLen + 1) = c.maxLen)) ∧
  Config.standard.maxLen % 3 = 1

/-- R174: SIZE_ENC is exact for the encoder's streams; SIZE_DEC_MAX bounds the decoder's successful streams from above, with
an excess of 0 or 1; no stream of length 1 mod 3 succeeds. -/
def Obligations.SizesBoundTheStreams : Prop :=
  (∀ (s q : State) (lenIn : Length) (bytes : List Byte), q.ports.lenIn.toNat = bytes.length →
    bytes.length ≤ q.config.maxLen / 3 * 2 →
    ∃ t, exec .sizeEnc q = .next t ∧
      t.rsp.result.toNat = (delivered (responses (s.facing (commandMoves lenIn (encStream bytes))))).length) ∧
  (∀ (s q : State) (lenIn : Length) (codes : List Byte), q.ports.lenIn.toNat = codes.length →
    AllOk (responses (s.facing (commandMoves lenIn (decStream codes)))) →
    codes.length % 3 ≠ 1 ∧
    ∃ t, exec .sizeDecMax q = .next t ∧
      let out := (delivered (responses (s.facing (commandMoves lenIn (decStream codes))))).length
      out = codes.length / 3 * 2 + (if codes.length % 3 = 2 then 1 else 0) ∧
      (codes.length % 3 = 0 → t.rsp.result.toNat = out) ∧ (codes.length % 3 = 2 → t.rsp.result.toNat = out + 1))

/-! ### Frames and isolation -/

/-- R32: the registers each command writes and reads. A command writes no register outside its row, and what it writes
and answers is a function of the registers its row reads. -/
def Obligations.RegisterAccessByCommand : Prop :=
  (∀ (i : Instr) (s t : State), exec i s = .next t →
    SameSurroundings s t ∧ (isEncoder i = false → t.enc = s.enc) ∧ (isDecoder i = false → t.dec = s.dec) ∧
    (i = .decFinalize ∨ (∃ c, i = .decConsume c) →
      (t.rsp.status = .ok →
        t.dec.fail = s.dec.fail ∧ t.dec.errStatus = s.dec.errStatus ∧ t.dec.errDetail = s.dec.errDetail) ∧
      (t.rsp.status ≠ .ok → t.dec.count = s.dec.count ∧ t.dec.v0 = s.dec.v0 ∧ t.dec.v1 = s.dec.v1))) ∧
  (∀ (i : Instr) (s s' : State), ∃ t t', exec i s = .next t ∧ exec i s' = .next t' ∧
    (isEncoder i = true → s'.enc = s.enc → t'.enc = t.enc ∧ t'.rsp = t.rsp) ∧
    (isDecoder i = true → s'.dec = s.dec → t'.dec = t.dec ∧ t'.rsp = t.rsp) ∧
    (isSize i = true → s'.ports.lenIn = s.ports.lenIn → s'.config = s.config → t'.rsp = t.rsp) ∧
    (isEncoder i = false → isDecoder i = false → isSize i = false → t'.rsp = t.rsp) ∧
    (i = .encReset → t'.enc = t.enc ∧ t'.rsp = t.rsp) ∧ (i = .decReset → t'.dec = t.dec ∧ t'.rsp = t.rsp))

/-- R61: on the one command port, the responses to one stream's commands and the registers of its transducer are those of
a run in which every other command is left out; for the encoder and for the decoder. -/
def Obligations.InterleavedStreamsAreIndependent : Prop :=
  ∀ (s : State) (moves : List Ports),
    (fullTrace (s.facing moves)).filter (fun pr => movesEncoder pr.1) = fullTrace (s.facing (moves.filter movesEncoder)) ∧
    (endState (s.facing moves)).enc = (endState (s.facing (moves.filter movesEncoder))).enc ∧
    (fullTrace (s.facing moves)).filter (fun pr => movesDecoder pr.1) = fullTrace (s.facing (moves.filter movesDecoder)) ∧
    (endState (s.facing moves)).dec = (endState (s.facing (moves.filter movesDecoder))).dec

/-! ### Reset and invariants -/

/-- R220, R221: `rst` resets both transducers whatever the command word and the registers, with an all-zero response, and
the step after it takes a command again; ENC_RESET resets only the encoder and DEC_RESET only the decoder. -/
def Obligations.ResetSources : Prop :=
  (∀ (s : State) (p : Ports) (rest : List Ports), s.pending = p :: rest → p.rst = true →
    step s = .next
      { enc := State.reset.enc, dec := State.reset.dec, ports := p, rsp := Response.zero, pending := rest,
        config := s.config }) ∧
  (∀ (s : State) (p q : Ports) (rest : List Ports) (i : Instr), s.pending = p :: q :: rest → p.rst = true →
    q.rst = false → decode q.cmd = .ok i →
    ∃ u, step s = .next u ∧ step u = exec i { u with ports := q, pending := rest }) ∧
  Response.zero.word = 0 ∧
  (∀ s : State, exec .encReset s = .next { s with enc := State.reset.enc, rsp := Response.zero }) ∧
  (∀ s : State, exec .decReset s = .next { s with dec := State.reset.dec, rsp := Response.zero })

/-- R34: the value of every register after reset. The ports, the response and the host's moves at reset are the model's
choice (log entries 1 to 4) and no part of this statement. -/
def Obligations.ResetValues : Prop :=
  State.reset.enc.pend = false ∧ State.reset.enc.byte = 0x00 ∧ State.reset.dec.count.toNat = 0 ∧
  State.reset.dec.v0 = 0 ∧ State.reset.dec.v1 = 0 ∧ State.reset.dec.fail = false ∧
  State.reset.dec.errStatus = 0 ∧ State.reset.dec.errDetail = 0

/-- R33: the invariant holds after reset, with any parameters. -/
def Obligations.ResetIsLegal : Prop := ∀ c : Config, Legal (State.resetWith c)

/-- R33, with R22 and R24: from every state that keeps the invariant, reachable or not, a step keeps it. -/
def Obligations.StepKeepsLegal : Prop := ∀ s t : State, Legal s → step s = .next t → Legal t

/-- R191, R197: whatever the host does, a latched failure is one of the four the decoder raises and the frozen buffer shows
it; this holds after reset and every step keeps it. -/
def Obligations.LatchAlwaysExplained : Prop :=
  LatchExplained State.reset.dec ∧ ∀ s t : State, LatchExplained s.dec → step s = .next t → LatchExplained t.dec

/-- R225: after a successful finalize the transducer is in its reset state; after a failed one the decoder reports
INSTANCE_FAILED to the next DEC_CONSUME. -/
def Obligations.FinalizeLeavesResetState : Prop :=
  ∀ s : State, Legal s →
    (∃ t, exec .encFinalize s = .next t ∧ t.enc = State.reset.enc) ∧
    (∃ t, exec .decFinalize s = .next t ∧
      (t.rsp.status = .ok → t.dec = State.reset.dec) ∧
      (t.rsp.status ≠ .ok → ∀ c, ∃ u, exec (.decConsume c) t = .next u ∧ u.rsp.status = .instanceFailed))

/-! ### The host's characters and the assembler -/

/-- 92_eei_decisions.md D3: a host character with an 8-bit code keeps it, and any wider one gets a code that misses, so that
a decode stream of characters that holds one ends with a failure. -/
def Obligations.WideCharactersMiss : Prop :=
  (∀ c : Char, c.toNat < 256 → (hostCharCode c).toNat = c.toNat) ∧
  (∀ c : Char, 256 ≤ c.toNat → romValue (hostCharCode c) = none) ∧
  (∀ (s : State) (lenIn : Length) (chars : List Char), (∃ c ∈ chars, 256 ≤ c.toNat) →
    ¬ AllOk (responses (s.facing (commandMoves lenIn (decStreamOfChars chars)))))

/-- R82: the rule's examples, a comment, and a quoted literal for every character with an 8-bit code. -/
def Obligations.AssemblerReadsCommands : Prop :=
  assembleLine "ENC_CONSUME 0x41".toList = .ok [⟨.encConsume 0x41, none⟩] ∧
  assembleLine "ENC_CONSUME 'A' ; the same".toList = .ok [⟨.encConsume 0x41, none⟩] ∧
  encode (.encConsume 0x41) = 0x5041 ∧
  assembleLine "DEC_CONSUME ' '".toList = .ok [⟨.decConsume 0x20, none⟩] ∧ encode (.decConsume 0x20) = 0x9020 ∧
  assembleLine "ROM_CHAR_OF 44".toList = .ok [⟨.romCharOf 44, none⟩] ∧ encode (.romCharOf 44) = 0x202C ∧
  assembleLine "SIZE_ENC n=7".toList = .ok [⟨.sizeEnc, some 7⟩] ∧
  (⟨.sizeEnc, some 7⟩ : AsmCommand).move 0 = ⟨false, 0xD000, 7⟩ ∧
  assembleLine "; a comment".toList = .ok [] ∧
  (∀ c : Char, c.toNat < 256 →
    assembleLine ("DEC_CONSUME '".toList ++ [c, '\'']) = .ok [⟨.decConsume (BitVec.ofNat 8 c.toNat), none⟩])

/-- R83: the expansion of the pseudo-commands, for every non-empty list of units `b1, ..., bk`, each spelled in any of
R82's forms, and for every text without a quotation mark. -/
def Obligations.AssemblerExpandsStreams : Prop :=
  (∀ units : List (List Char × Byte), units ≠ [] → (∀ u ∈ units, SpellsUnit u.1 u.2) →
    assembleLine ("ENC_STREAM ".toList ++ [',', ' '].intercalate (units.map Prod.fst)) =
      .ok ((encStream (units.map Prod.snd)).map fun i => ⟨i, none⟩)) ∧
  (∀ text : List Char, (∀ c ∈ text, c.toNat < 256 ∧ c ≠ '"') →
    let codes := text.map (fun c => BitVec.ofNat 8 c.toNat)
    assembleLine ("ENC_STREAM \"".toList ++ text ++ ['"']) = .ok ((encStream codes).map fun i => ⟨i, none⟩) ∧
    assembleLine ("DEC_STREAM \"".toList ++ text ++ ['"']) = .ok ((decStream codes).map fun i => ⟨i, none⟩)) ∧
  (∀ bytes : List Byte,
    encStream bytes = [.encReset] ++ bytes.map .encConsume ++ [.encFinalize] ∧
    decStream bytes = [.decReset] ++ bytes.map .decConsume ++ [.decFinalize])
end

