-- ==== Sys2Proof/Laws/Assembler.lean ====
section
/-! SUPPORT. What the assembler's readers do with a spelled unit in front of the rest of a line. -/

namespace Sys2Proof.Machine

open Sys2Proof.Safety

/-- The line ends after a unit, or a comma follows it. -/
abbrev UnitStops (rest : List Char) : Prop := rest = [] ∨ ∃ more, rest = ',' :: more

/-- A run of digits is read up to where the unit stops. -/
theorem moreDigits_append {base : Nat} {rest : List Char} (hs : UnitStops rest) :
    ∀ (ds : List Char) (acc : Nat), (moreDigits base acc ds).2 = [] →
      moreDigits base acc (ds ++ rest) = ((moreDigits base acc ds).1, rest)
  | [], acc, _ => by
    rcases hs with rfl | ⟨more, rfl⟩
    · rfl
    · simp [moreDigits, digitValue]
  | d :: ds, acc, h => by
    simp only [List.cons_append, moreDigits] at h ⊢
    cases hd : digitValue d with
    | none => simp [hd] at h
    | some v =>
      simp only [hd] at h ⊢
      by_cases hb : v < base
      · simp only [hb, if_true] at h ⊢
        exact moreDigits_append hs ds _ h
      · simp [hb] at h

theorem digits_append {base : Nat} {ds rest : List Char} {v : Nat} (hs : UnitStops rest) (hne : ds ≠ [])
    (h : moreDigits base 0 ds = (v, [])) : digits base (ds ++ rest) = .ok (v, rest) := by
  unfold digits
  rw [moreDigits_append hs ds 0 (by rw [h]), h]
  simp [hne]

/-- The digits of a byte read back as the byte, and have the shape of no other spelling. -/
theorem toDigits_ten_read : ∀ u : Byte, moreDigits 10 0 (Nat.toDigits 10 u.toNat) = (u.toNat, []) := by decide
theorem toDigits_sixteen_read : ∀ u : Byte, moreDigits 16 0 (Nat.toDigits 16 u.toNat) = (u.toNat, []) := by decide
theorem toDigits_sixteen_ne_nil : ∀ u : Byte, Nat.toDigits 16 u.toNat ≠ [] := by decide
theorem toDigits_ten_shape : ∀ u : Byte, (match Nat.toDigits 10 u.toNat with
    | [] => false
    | c :: cs => c ≠ '\'' && c ≠ '"' && !isBlank c && (match cs with | [] => true | d :: _ => d ≠ 'x')) = true := by decide

theorem number_ten {u : Byte} {rest : List Char} (hs : UnitStops rest) :
    number (Nat.toDigits 10 u.toNat ++ rest) = .ok (u.toNat, rest) := by
  have shape := toDigits_ten_shape u
  have read := toDigits_ten_read u
  generalize Nat.toDigits 10 u.toNat = ds at *
  cases ds with
  | nil => simp at shape
  | cons c cs =>
    rw [number.eq_2]
    · exact digits_append hs (by simp) read
    · rintro more he
      rcases cs with _ | ⟨d, cs⟩
      · rcases hs with rfl | ⟨more', rfl⟩ <;> simp at he
      · simp at he shape
        exact shape.2 he.2.1

theorem number_sixteen {u : Byte} {rest : List Char} (hs : UnitStops rest) :
    number ('0' :: 'x' :: Nat.toDigits 16 u.toNat ++ rest) = .ok (u.toNat, rest) := by
  simpa [number] using digits_append hs (toDigits_sixteen_ne_nil u) (toDigits_sixteen_read u)

/-- A spelled unit begins neither with a blank nor with a quotation mark. -/
theorem SpellsUnit_head {text : List Char} {u : Byte} (h : SpellsUnit text u) :
    ∃ c cs, text = c :: cs ∧ isBlank c = false ∧ c ≠ '"' := by
  rcases h with ⟨c, -, rfl⟩ | rfl | rfl
  · exact ⟨_, _, rfl, by decide, by decide⟩
  · have shape := toDigits_ten_shape u
    generalize Nat.toDigits 10 u.toNat = ds at *
    cases ds with
    | nil => simp at shape
    | cons c cs =>
      simp at shape
      exact ⟨c, cs, rfl, shape.1.2, shape.1.1.2⟩
  · exact ⟨_, _, rfl, by decide, by decide⟩

/-- A data operand that is not a quoted character is a number that fits 8 bits. -/
theorem dataUnit_of_number {cs rest : List Char} {u : Byte} (hq : cs.head? ≠ some '\'')
    (hn : number cs = .ok (u.toNat, rest)) : dataUnit cs = .ok (u, rest) := by
  have hu := u.isLt
  unfold dataUnit
  split
  · simp at hq
  · rw [hn]
    simp [hu]

/-- A spelled unit is read as the unit, and the rest of the line is left. -/
theorem dataUnit_spelled {text rest : List Char} {u : Byte} (h : SpellsUnit text u) (hs : UnitStops rest) :
    dataUnit (text ++ rest) = .ok (u, rest) := by
  have hu := u.isLt
  rcases h with ⟨c, hc, rfl⟩ | rfl | rfl
  · simp [dataUnit, charUnit, hc, hu, Except.map]
  · refine dataUnit_of_number ?_ (number_ten hs)
    have shape := toDigits_ten_shape u
    generalize Nat.toDigits 10 u.toNat = ds at *
    cases ds with
    | nil => simp at shape
    | cons c cs =>
      simp at shape
      simpa using shape.1.1.1
  · exact dataUnit_of_number (by simp) (number_sixteen hs)

end Sys2Proof.Machine
end

