-- ==== Sys2Proof/Laws/State.lean ====
section
/-! SUPPORT. What each update of the state leaves in each field, one lemma a field, so that no proof unfolds a record update. -/

namespace Sys2Proof.Machine

variable (s : State)

@[simp] theorem respond_enc (r : Response) : (respond r s).enc = s.enc := rfl
@[simp] theorem respond_dec (r : Response) : (respond r s).dec = s.dec := rfl
@[simp] theorem respond_ports (r : Response) : (respond r s).ports = s.ports := rfl
@[simp] theorem respond_rsp (r : Response) : (respond r s).rsp = r := rfl
@[simp] theorem respond_pending (r : Response) : (respond r s).pending = s.pending := rfl
@[simp] theorem respond_config (r : Response) : (respond r s).config = s.config := rfl

@[simp] theorem encHold_enc (b : Byte) : (encHold b s).enc = ⟨true, b⟩ := rfl
@[simp] theorem encHold_dec (b : Byte) : (encHold b s).dec = s.dec := rfl
@[simp] theorem encHold_ports (b : Byte) : (encHold b s).ports = s.ports := rfl
@[simp] theorem encHold_rsp (b : Byte) : (encHold b s).rsp = s.rsp := rfl
@[simp] theorem encHold_pending (b : Byte) : (encHold b s).pending = s.pending := rfl
@[simp] theorem encHold_config (b : Byte) : (encHold b s).config = s.config := rfl

@[simp] theorem encClear_enc : (encClear s).enc = .reset := rfl
@[simp] theorem encClear_dec : (encClear s).dec = s.dec := rfl
@[simp] theorem encClear_ports : (encClear s).ports = s.ports := rfl
@[simp] theorem encClear_rsp : (encClear s).rsp = s.rsp := rfl
@[simp] theorem encClear_pending : (encClear s).pending = s.pending := rfl
@[simp] theorem encClear_config : (encClear s).config = s.config := rfl

@[simp] theorem decHoldFirst_enc (v : Value) : (decHoldFirst v s).enc = s.enc := rfl
@[simp] theorem decHoldFirst_dec (v : Value) : (decHoldFirst v s).dec = { s.dec with v0 := v, count := .one } := rfl
@[simp] theorem decHoldFirst_ports (v : Value) : (decHoldFirst v s).ports = s.ports := rfl
@[simp] theorem decHoldFirst_rsp (v : Value) : (decHoldFirst v s).rsp = s.rsp := rfl
@[simp] theorem decHoldFirst_pending (v : Value) : (decHoldFirst v s).pending = s.pending := rfl
@[simp] theorem decHoldFirst_config (v : Value) : (decHoldFirst v s).config = s.config := rfl

@[simp] theorem decHoldSecond_enc (v : Value) : (decHoldSecond v s).enc = s.enc := rfl
@[simp] theorem decHoldSecond_dec (v : Value) : (decHoldSecond v s).dec = { s.dec with v1 := v, count := .two } := rfl
@[simp] theorem decHoldSecond_ports (v : Value) : (decHoldSecond v s).ports = s.ports := rfl
@[simp] theorem decHoldSecond_rsp (v : Value) : (decHoldSecond v s).rsp = s.rsp := rfl
@[simp] theorem decHoldSecond_pending (v : Value) : (decHoldSecond v s).pending = s.pending := rfl
@[simp] theorem decHoldSecond_config (v : Value) : (decHoldSecond v s).config = s.config := rfl

@[simp] theorem decClearGroup_enc : (decClearGroup s).enc = s.enc := rfl
@[simp] theorem decClearGroup_dec : (decClearGroup s).dec = { s.dec with count := .zero, v0 := 0, v1 := 0 } := rfl
@[simp] theorem decClearGroup_ports : (decClearGroup s).ports = s.ports := rfl
@[simp] theorem decClearGroup_rsp : (decClearGroup s).rsp = s.rsp := rfl
@[simp] theorem decClearGroup_pending : (decClearGroup s).pending = s.pending := rfl
@[simp] theorem decClearGroup_config : (decClearGroup s).config = s.config := rfl

@[simp] theorem failDecoder_enc (st : Status) (d : BitVec 2) : (failDecoder st d s).enc = s.enc := rfl
@[simp] theorem failDecoder_dec (st : Status) (d : BitVec 2) :
    (failDecoder st d s).dec = { s.dec with fail := true, errStatus := st.code, errDetail := d } := rfl
@[simp] theorem failDecoder_ports (st : Status) (d : BitVec 2) : (failDecoder st d s).ports = s.ports := rfl
@[simp] theorem failDecoder_rsp (st : Status) (d : BitVec 2) : (failDecoder st d s).rsp = .raise st d := rfl
@[simp] theorem failDecoder_pending (st : Status) (d : BitVec 2) : (failDecoder st d s).pending = s.pending := rfl
@[simp] theorem failDecoder_config (st : Status) (d : BitVec 2) : (failDecoder st d s).config = s.config := rfl

@[simp] theorem reportFailed_enc : (reportFailed s).enc = s.enc := rfl
@[simp] theorem reportFailed_dec : (reportFailed s).dec = s.dec := rfl
@[simp] theorem reportFailed_ports : (reportFailed s).ports = s.ports := rfl
@[simp] theorem reportFailed_rsp : (reportFailed s).rsp = .failedBefore s.dec := rfl
@[simp] theorem reportFailed_pending : (reportFailed s).pending = s.pending := rfl
@[simp] theorem reportFailed_config : (reportFailed s).config = s.config := rfl

@[simp] theorem decClear_enc : (decClear s).enc = s.enc := rfl
@[simp] theorem decClear_dec : (decClear s).dec = .reset := rfl
@[simp] theorem decClear_ports : (decClear s).ports = s.ports := rfl
@[simp] theorem decClear_rsp : (decClear s).rsp = s.rsp := rfl
@[simp] theorem decClear_pending : (decClear s).pending = s.pending := rfl
@[simp] theorem decClear_config : (decClear s).config = s.config := rfl

@[simp] theorem assertRst_enc : (assertRst s).enc = .reset := rfl
@[simp] theorem assertRst_dec : (assertRst s).dec = .reset := rfl
@[simp] theorem assertRst_ports : (assertRst s).ports = s.ports := rfl
@[simp] theorem assertRst_rsp : (assertRst s).rsp = .zero := rfl
@[simp] theorem assertRst_pending : (assertRst s).pending = s.pending := rfl
@[simp] theorem assertRst_config : (assertRst s).config = s.config := rfl

@[simp] theorem illegalCommand_enc : (illegalCommand s).enc = s.enc := rfl
@[simp] theorem illegalCommand_dec : (illegalCommand s).dec = s.dec := rfl
@[simp] theorem illegalCommand_ports : (illegalCommand s).ports = s.ports := rfl
@[simp] theorem illegalCommand_rsp : (illegalCommand s).rsp = .raise .illegalCommand 0 := rfl
@[simp] theorem illegalCommand_pending : (illegalCommand s).pending = s.pending := rfl
@[simp] theorem illegalCommand_config : (illegalCommand s).config = s.config := rfl

@[simp] theorem facing_enc (ps : List Ports) : (s.facing ps).enc = s.enc := rfl
@[simp] theorem facing_dec (ps : List Ports) : (s.facing ps).dec = s.dec := rfl
@[simp] theorem facing_ports (ps : List Ports) : (s.facing ps).ports = s.ports := rfl
@[simp] theorem facing_rsp (ps : List Ports) : (s.facing ps).rsp = s.rsp := rfl
@[simp] theorem facing_config (ps : List Ports) : (s.facing ps).config = s.config := rfl
@[simp] theorem facing_pending (ps : List Ports) : (s.facing ps).pending = ps := rfl

@[simp] theorem placeWord_enc (w : Word) : (placeWord w s).enc = s.enc := rfl
@[simp] theorem placeWord_dec (w : Word) : (placeWord w s).dec = s.dec := rfl
@[simp] theorem placeWord_ports (w : Word) : (placeWord w s).ports = s.ports := rfl
@[simp] theorem placeWord_rsp (w : Word) : (placeWord w s).rsp = s.rsp := rfl
@[simp] theorem placeWord_config (w : Word) : (placeWord w s).config = s.config := rfl
@[simp] theorem placeWord_pending (w : Word) : (placeWord w s).pending = ⟨false, w, s.ports.lenIn⟩ :: s.pending := rfl

end Sys2Proof.Machine
end

