-- ==== Sys2Proof/Laws/Meanings.lean ====
section
/-! SUPPORT. Everything each meaning and each shared operation can do, said once; later proofs cite these cases and do not
unfold the definitions. -/

namespace Sys2Proof.Machine

variable {s t : State}

theorem execRomValueOf_cases (c : Byte) (s : State) :
    (∃ v, romValue c = some v ∧ execRomValueOf c s = .next (respond (.found (v.setWidth 32)) s)) ∨
    (romValue c = none ∧ execRomValueOf c s = .next (respond .missed s)) := by
  unfold execRomValueOf
  cases h : romValue c with
  | none => exact .inr ⟨rfl, rfl⟩
  | some v => exact .inl ⟨v, rfl, rfl⟩

theorem execRomCharOf_cases (v : Byte) (s : State) :
    (∃ k : Fin 45, k.val = v.toNat ∧ execRomCharOf v s = .next (respond (.found ((romChar k).setWidth 32)) s)) ∨
    (45 ≤ v.toNat ∧ execRomCharOf v s = .next (respond .missed s)) := by
  unfold execRomCharOf
  by_cases h : v.toNat ≤ 44
  · exact .inl ⟨⟨v.toNat, Nat.lt_succ_of_le h⟩, rfl, dif_pos h⟩
  · exact .inr ⟨by omega, dif_neg h⟩

theorem execEncConsume_cases (b : Byte) (s : State) :
    (s.enc.pend = false ∧ execEncConsume b s = .next (respond .ok (encHold b s))) ∨
    (s.enc.pend = true ∧
      execEncConsume b s = .next (respond (emitByteGroup (bytePairValue s.enc.byte b)) (encClear s))) := by
  unfold execEncConsume
  cases h : s.enc.pend
  · exact .inl ⟨rfl, rfl⟩
  · exact .inr ⟨rfl, rfl⟩

theorem execEncFinalize_cases (s : State) :
    (s.enc.pend = false ∧ execEncFinalize s = .next (respond .ok s)) ∨
    (s.enc.pend = true ∧
      execEncFinalize s = .next (respond (emitTrailingByte (trailingByteValue s.enc.byte)) (encClear s))) := by
  unfold execEncFinalize
  cases h : s.enc.pend
  · exact .inl ⟨rfl, rfl⟩
  · exact .inr ⟨rfl, rfl⟩

theorem completeTriple_cases (triple : Nat) (s : State) :
    (65535 < triple ∧ completeTriple triple s = failDecoder .malformedEncoding 2 s) ∨
    (triple ≤ 65535 ∧ completeTriple triple s = respond (emitTriple triple) (decClearGroup s)) := by
  unfold completeTriple
  by_cases h : triple > 65535
  · exact .inl ⟨h, if_pos h⟩
  · exact .inr ⟨by omega, if_neg h⟩

theorem acceptValue_cases (v : Value) (s : State) :
    (s.dec.count = .zero ∧ acceptValue v s = respond .ok (decHoldFirst v s)) ∨
    (s.dec.count = .one ∧ acceptValue v s = respond .ok (decHoldSecond v s)) ∨
    (s.dec.count = .two ∧ acceptValue v s = completeTriple (tripleValue s.dec.v0 s.dec.v1 v) s) := by
  unfold acceptValue
  cases h : s.dec.count
  · exact .inl ⟨rfl, rfl⟩
  · exact .inr (.inl ⟨rfl, rfl⟩)
  · exact .inr (.inr ⟨rfl, rfl⟩)

theorem execDecConsume_cases (c : Byte) (s : State) :
    (s.dec.fail = true ∧ execDecConsume c s = .next (reportFailed s)) ∨
    (s.dec.fail = false ∧ romValue c = none ∧ execDecConsume c s = .next (failDecoder .malformedEncoding 1 s)) ∨
    (s.dec.fail = false ∧ ∃ v, romValue c = some v ∧ execDecConsume c s = .next (acceptValue v s)) := by
  unfold execDecConsume
  cases hf : s.dec.fail
  · cases hv : romValue c with
    | none => exact .inr (.inl ⟨rfl, rfl, rfl⟩)
    | some v => exact .inr (.inr ⟨rfl, v, rfl, rfl⟩)
  · exact .inl ⟨rfl, rfl⟩

theorem completePair_cases (pair : Nat) (s : State) :
    (255 < pair ∧ completePair pair s = failDecoder .malformedEncoding 3 s) ∨
    (pair ≤ 255 ∧ completePair pair s = respond (Response.ok.emit (BitVec.ofNat 8 pair)) (decClearGroup s)) := by
  unfold completePair
  by_cases h : pair > 255
  · exact .inl ⟨h, if_pos h⟩
  · exact .inr ⟨by omega, if_neg h⟩

theorem execDecFinalize_cases (s : State) :
    (s.dec.fail = true ∧ execDecFinalize s = .next (reportFailed s)) ∨
    (s.dec.fail = false ∧ s.dec.count = .zero ∧ execDecFinalize s = .next (respond .ok s)) ∨
    (s.dec.fail = false ∧ s.dec.count = .one ∧ execDecFinalize s = .next (failDecoder .truncatedInput 0 s)) ∨
    (s.dec.fail = false ∧ s.dec.count = .two ∧
      execDecFinalize s = .next (completePair (pairValue s.dec.v0 s.dec.v1) s)) := by
  unfold execDecFinalize
  cases hf : s.dec.fail
  · cases hc : s.dec.count
    · exact .inr (.inl ⟨rfl, rfl, rfl⟩)
    · exact .inr (.inr (.inl ⟨rfl, rfl, rfl⟩))
    · exact .inr (.inr (.inr ⟨rfl, rfl, rfl⟩))
  · exact .inl ⟨rfl, rfl⟩

theorem encSizeResponse_cases (maxLen n : Nat) :
    (encThreshold maxLen < n ∧ encSizeResponse maxLen n = .raise .sizeExceedsMaximum 0) ∨
    (n ≤ encThreshold maxLen ∧ encSizeResponse maxLen n = .sized (BitVec.ofNat 32 (encExactSize n))) := by
  unfold encSizeResponse
  by_cases h : n > encThreshold maxLen
  · exact .inl ⟨h, if_pos h⟩
  · exact .inr ⟨by omega, if_neg h⟩

/-- The host's next move is the first of its moves. -/
theorem nextMove_cases (s : State) :
    (s.pending = [] ∧ nextMove s = none) ∨
    (∃ p rest, s.pending = p :: rest ∧ nextMove s = some { s with ports := p, pending := rest }) := by
  unfold nextMove
  cases h : s.pending with
  | nil => exact .inl ⟨rfl, rfl⟩
  | cons p rest => exact .inr ⟨p, rest, rfl, rfl⟩

/-- What the levels on the ports make the CORE do: reset, run a command, or turn an illegal word away. -/
theorem runPorts_cases (s : State) :
    (s.ports.rst = true ∧ runPorts s = .next (assertRst s)) ∨
    (s.ports.rst = false ∧ ∃ i, decode s.ports.cmd = .ok i ∧ runPorts s = exec i s) ∨
    (s.ports.rst = false ∧ ∃ e, decode s.ports.cmd = .error e ∧ runPorts s = .next (illegalCommand s)) := by
  unfold runPorts
  cases hr : s.ports.rst
  · cases hd : decode s.ports.cmd with
    | ok i => exact .inr (.inl ⟨rfl, i, rfl, rfl⟩)
    | error e => exact .inr (.inr ⟨rfl, e, rfl, rfl⟩)
  · exact .inl ⟨rfl, rfl⟩

/-- A step that answers a next state took the host's next move. -/
theorem step_next_cases (h : step s = .next t) :
    ∃ p rest, s.pending = p :: rest ∧ runPorts { s with ports := p, pending := rest } = .next t := by
  unfold step at h
  rcases nextMove_cases s with ⟨-, hn⟩ | ⟨p, rest, hp, hn⟩ <;> rw [hn] at h
  · cases h
  · exact ⟨p, rest, hp, h⟩

end Sys2Proof.Machine
end

