-- ==== Sys2Proof/Laws/Effects.lean ====
section
/-! SUPPORT. Everything a command can do, said once: each way a command can act, with the condition under which it acts so
and the state it leaves. Claims about all commands split on these cases. -/

namespace Sys2Proof.Machine

/-- `Effect i s t`: command `i`, taken in state `s`, leaves state `t`, in the way the constructor names. -/
inductive Effect : Instr → State → State → Prop
  | valueFound (c : Byte) (v : Value) (s : State) (h : romValue c = some v) :
      Effect (.romValueOf c) s (respond (.found (v.setWidth 32)) s)
  | valueMissed (c : Byte) (s : State) (h : romValue c = none) : Effect (.romValueOf c) s (respond .ok s)
  | charFound (v : Byte) (k : Fin 45) (s : State) (h : k.val = v.toNat) :
      Effect (.romCharOf v) s (respond (.found ((romChar k).setWidth 32)) s)
  | charMissed (v : Byte) (s : State) (h : 45 ≤ v.toNat) : Effect (.romCharOf v) s (respond .ok s)
  | encReset (s : State) : Effect .encReset s (respond .ok (encClear s))
  | byteHeld (b : Byte) (s : State) (h : s.enc.pend = false) :
      Effect (.encConsume b) s (respond .ok (encHold b s))
  | groupEncoded (b : Byte) (s : State) (h : s.enc.pend = true) :
      Effect (.encConsume b) s (respond (emitByteGroup (bytePairValue s.enc.byte b)) (encClear s))
  | encEndedEmpty (s : State) (h : s.enc.pend = false) : Effect .encFinalize s (respond .ok s)
  | trailingEncoded (s : State) (h : s.enc.pend = true) :
      Effect .encFinalize s (respond (emitTrailingByte (trailingByteValue s.enc.byte)) (encClear s))
  | decReset (s : State) : Effect .decReset s (respond .ok (decClear s))
  | consumeFailedBefore (c : Byte) (s : State) (hf : s.dec.fail = true) : Effect (.decConsume c) s (reportFailed s)
  | notInAlphabet (c : Byte) (s : State) (hf : s.dec.fail = false) (h : romValue c = none) :
      Effect (.decConsume c) s (failDecoder .malformedEncoding 1 s)
  | firstHeld (c : Byte) (v : Value) (s : State) (hf : s.dec.fail = false) (h : romValue c = some v)
      (hc : s.dec.count = .zero) : Effect (.decConsume c) s (respond .ok (decHoldFirst v s))
  | secondHeld (c : Byte) (v : Value) (s : State) (hf : s.dec.fail = false) (h : romValue c = some v)
      (hc : s.dec.count = .one) : Effect (.decConsume c) s (respond .ok (decHoldSecond v s))
  | tripleDecoded (c : Byte) (v : Value) (s : State) (hf : s.dec.fail = false) (h : romValue c = some v)
      (hc : s.dec.count = .two) (ht : tripleValue s.dec.v0 s.dec.v1 v ≤ 65535) :
      Effect (.decConsume c) s (respond (emitTriple (tripleValue s.dec.v0 s.dec.v1 v)) (decClearGroup s))
  | tripleTooLarge (c : Byte) (v : Value) (s : State) (hf : s.dec.fail = false) (h : romValue c = some v)
      (hc : s.dec.count = .two) (ht : 65535 < tripleValue s.dec.v0 s.dec.v1 v) :
      Effect (.decConsume c) s (failDecoder .malformedEncoding 2 s)
  | finalizeFailedBefore (s : State) (hf : s.dec.fail = true) : Effect .decFinalize s (reportFailed s)
  | decEndedEmpty (s : State) (hf : s.dec.fail = false) (hc : s.dec.count = .zero) :
      Effect .decFinalize s (respond .ok s)
  | truncated (s : State) (hf : s.dec.fail = false) (hc : s.dec.count = .one) :
      Effect .decFinalize s (failDecoder .truncatedInput 0 s)
  | pairDecoded (s : State) (hf : s.dec.fail = false) (hc : s.dec.count = .two)
      (hp : pairValue s.dec.v0 s.dec.v1 ≤ 255) :
      Effect .decFinalize s
        (respond (Response.ok.emit (BitVec.ofNat 8 (pairValue s.dec.v0 s.dec.v1))) (decClearGroup s))
  | pairTooLarge (s : State) (hf : s.dec.fail = false) (hc : s.dec.count = .two)
      (hp : 255 < pairValue s.dec.v0 s.dec.v1) : Effect .decFinalize s (failDecoder .malformedEncoding 3 s)
  | decSized (s : State) : Effect .sizeDecMax s (respond (.sized (BitVec.ofNat 32 (decMaxSize (lenOperand s)))) s)
  | encSized (s : State) (h : lenOperand s ≤ encThreshold s.config.maxLen) :
      Effect .sizeEnc s (respond (.sized (BitVec.ofNat 32 (encExactSize (lenOperand s)))) s)
  | encSizeTooLarge (s : State) (h : encThreshold s.config.maxLen < lenOperand s) :
      Effect .sizeEnc s (respond (.raise .sizeExceedsMaximum 0) s)

theorem acceptValue_effect {c : Byte} {v : Value} {s : State} (hf : s.dec.fail = false) (h : romValue c = some v) :
    Effect (.decConsume c) s (acceptValue v s) := by
  rcases acceptValue_cases v s with ⟨hc, he⟩ | ⟨hc, he⟩ | ⟨hc, he⟩ <;> rw [he]
  · exact .firstHeld c v s hf h hc
  · exact .secondHeld c v s hf h hc
  · rcases completeTriple_cases (tripleValue s.dec.v0 s.dec.v1 v) s with ⟨ht, he⟩ | ⟨ht, he⟩ <;> rw [he]
    · exact .tripleTooLarge c v s hf h hc ht
    · exact .tripleDecoded c v s hf h hc ht

theorem completePair_effect {s : State} (hf : s.dec.fail = false) (hc : s.dec.count = .two) :
    Effect .decFinalize s (completePair (pairValue s.dec.v0 s.dec.v1) s) := by
  rcases completePair_cases (pairValue s.dec.v0 s.dec.v1) s with ⟨hp, he⟩ | ⟨hp, he⟩ <;> rw [he]
  · exact .pairTooLarge s hf hc hp
  · exact .pairDecoded s hf hc hp

/-- Every command, in every state, acts in one of these ways. -/
theorem exec_effect (i : Instr) (s : State) : ∃ t, exec i s = .next t ∧ Effect i s t := by
  cases i with
  | romValueOf c =>
    rcases execRomValueOf_cases c s with ⟨v, hv, he⟩ | ⟨hv, he⟩
    · exact ⟨_, he, .valueFound c v s hv⟩
    · exact ⟨_, he, .valueMissed c s hv⟩
  | romCharOf v =>
    rcases execRomCharOf_cases v s with ⟨k, hk, he⟩ | ⟨hv, he⟩
    · exact ⟨_, he, .charFound v k s hk⟩
    · exact ⟨_, he, .charMissed v s hv⟩
  | encReset => exact ⟨_, rfl, .encReset s⟩
  | encConsume b =>
    rcases execEncConsume_cases b s with ⟨hp, he⟩ | ⟨hp, he⟩
    · exact ⟨_, he, .byteHeld b s hp⟩
    · exact ⟨_, he, .groupEncoded b s hp⟩
  | encFinalize =>
    rcases execEncFinalize_cases s with ⟨hp, he⟩ | ⟨hp, he⟩
    · exact ⟨_, he, .encEndedEmpty s hp⟩
    · exact ⟨_, he, .trailingEncoded s hp⟩
  | decReset => exact ⟨_, rfl, .decReset s⟩
  | decConsume c =>
    rcases execDecConsume_cases c s with ⟨hf, he⟩ | ⟨hf, hv, he⟩ | ⟨hf, v, hv, he⟩
    · exact ⟨_, he, .consumeFailedBefore c s hf⟩
    · exact ⟨_, he, .notInAlphabet c s hf hv⟩
    · exact ⟨_, he, acceptValue_effect hf hv⟩
  | decFinalize =>
    rcases execDecFinalize_cases s with ⟨hf, he⟩ | ⟨hf, hc, he⟩ | ⟨hf, hc, he⟩ | ⟨hf, hc, he⟩
    · exact ⟨_, he, .finalizeFailedBefore s hf⟩
    · exact ⟨_, he, .decEndedEmpty s hf hc⟩
    · exact ⟨_, he, .truncated s hf hc⟩
    · exact ⟨_, he, completePair_effect hf hc⟩
  | sizeDecMax => exact ⟨_, rfl, .decSized s⟩
  | sizeEnc =>
    rcases encSizeResponse_cases s.config.maxLen (lenOperand s) with ⟨h, he⟩ | ⟨h, he⟩
    · exact ⟨_, congrArg (fun r => Host.Outcome.next (respond r s)) he, .encSizeTooLarge s h⟩
    · exact ⟨_, congrArg (fun r => Host.Outcome.next (respond r s)) he, .encSized s h⟩

/-- What a command that answers a next state did. -/
theorem effect_of_exec {i : Instr} {s t : State} (h : exec i s = .next t) : Effect i s t := by
  obtain ⟨t', h', he⟩ := exec_effect i s
  rw [h] at h'
  cases h'
  exact he

/-- What a step that answers a next state did: `rst`, a command, or an illegal word turned away. -/
theorem step_effect {s t : State} {p : Ports} {rest : List Ports} (hp : s.pending = p :: rest) (h : step s = .next t) :
    (p.rst = true ∧ t = assertRst { s with ports := p, pending := rest }) ∨
    (p.rst = false ∧ ∃ i, decode p.cmd = .ok i ∧ Effect i { s with ports := p, pending := rest } t) ∨
    (p.rst = false ∧ ∃ e, decode p.cmd = .error e ∧ t = illegalCommand { s with ports := p, pending := rest }) := by
  obtain ⟨p', rest', hp', h⟩ := step_next_cases h
  rw [hp] at hp'
  cases hp'
  rcases runPorts_cases { s with ports := p, pending := rest } with ⟨hr, he⟩ | ⟨hr, i, hd, he⟩ | ⟨hr, e, hd, he⟩ <;>
    rw [h] at he
  · cases he
    exact .inl ⟨hr, rfl⟩
  · exact .inr (.inl ⟨hr, i, hd, effect_of_exec he.symm⟩)
  · cases he
    exact .inr (.inr ⟨hr, e, hd, rfl⟩)

end Sys2Proof.Machine
end

