-- ==== Sys2Proof/Laws/PerInstr.lean ====
section
/-! SUPPORT. Statements made for every command, one lemma a constructor. -/

namespace Sys2Proof.Laws

/-- The three fields of a command's word are the ones the opcode map gives the command, and they are legal. -/
def EncodedFields.Statement (i : Instr) : Prop := fieldsOf (encode i) = i.toFields ∧ i.wellFormed = true

theorem EncodedFields.romValueOf (c : Byte) : EncodedFields.Statement (.romValueOf c) := by
  revert c; unfold EncodedFields.Statement; decide
theorem EncodedFields.romCharOf (v : Byte) : EncodedFields.Statement (.romCharOf v) := by
  revert v; unfold EncodedFields.Statement; decide
theorem EncodedFields.encReset : EncodedFields.Statement .encReset := by unfold EncodedFields.Statement; decide
theorem EncodedFields.encConsume (b : Byte) : EncodedFields.Statement (.encConsume b) := by
  revert b; unfold EncodedFields.Statement; decide
theorem EncodedFields.encFinalize : EncodedFields.Statement .encFinalize := by unfold EncodedFields.Statement; decide
theorem EncodedFields.decReset : EncodedFields.Statement .decReset := by unfold EncodedFields.Statement; decide
theorem EncodedFields.decConsume (c : Byte) : EncodedFields.Statement (.decConsume c) := by
  revert c; unfold EncodedFields.Statement; decide
theorem EncodedFields.decFinalize : EncodedFields.Statement .decFinalize := by unfold EncodedFields.Statement; decide
theorem EncodedFields.sizeDecMax : EncodedFields.Statement .sizeDecMax := by unfold EncodedFields.Statement; decide
theorem EncodedFields.sizeEnc : EncodedFields.Statement .sizeEnc := by unfold EncodedFields.Statement; decide

end Sys2Proof.Laws
end

