-- ==== Sys2Proof/Laws/Responses.lean ====
section
/-! SUPPORT. What each response says: its status, and the units it delivers. -/

namespace Sys2Proof.Machine

@[simp] theorem ok_status : Response.ok.status = .ok := rfl
@[simp] theorem ok_units : Response.ok.units = [] := rfl
@[simp] theorem zero_status : Response.zero.status = .ok := rfl
@[simp] theorem zero_units : Response.zero.units = [] := rfl
@[simp] theorem found_status (v : Length) : (Response.found v).status = .ok := rfl
@[simp] theorem found_units (v : Length) : (Response.found v).units = [] := rfl
@[simp] theorem missed_eq_ok : Response.missed = Response.ok := rfl
@[simp] theorem sized_status (v : Length) : (Response.sized v).status = .ok := rfl
@[simp] theorem sized_units (v : Length) : (Response.sized v).units = [] := rfl
@[simp] theorem raise_status (st : Status) (d : BitVec 2) : (Response.raise st d).status = st := rfl
@[simp] theorem raise_detail (st : Status) (d : BitVec 2) : (Response.raise st d).detail = d := rfl
@[simp] theorem raise_units (st : Status) (d : BitVec 2) : (Response.raise st d).units = [] := rfl
@[simp] theorem failedBefore_status (d : DecRegs) : (Response.failedBefore d).status = .instanceFailed := rfl
@[simp] theorem failedBefore_detail (d : DecRegs) : (Response.failedBefore d).detail = d.errDetail := rfl
@[simp] theorem failedBefore_units (d : DecRegs) : (Response.failedBefore d).units = [] := rfl

/-- One unit leaves in lane 0. -/
theorem emit_one (a : Byte) : Response.ok.emit a = { Response.zero with n := 1, out0 := a } := rfl

/-- Two units leave in lanes 0 and 1, in the order they were emitted. -/
theorem emit_two (a b : Byte) :
    (Response.ok.emit a).emit b = { Response.zero with n := 2, out0 := a, out1 := b } := rfl

/-- Three units leave in lanes 0, 1 and 2, in the order they were emitted. -/
theorem emit_three (a b c : Byte) :
    ((Response.ok.emit a).emit b).emit c = { Response.zero with n := 3, out0 := a, out1 := b, out2 := c } := rfl

@[simp] theorem emit_one_status (a : Byte) : (Response.ok.emit a).status = .ok := rfl
@[simp] theorem emit_one_units (a : Byte) : (Response.ok.emit a).units = [a] := rfl
@[simp] theorem emitByteGroup_status (value : Nat) : (emitByteGroup value).status = .ok := rfl
@[simp] theorem emitByteGroup_units (value : Nat) :
    (emitByteGroup value).units = [digitChar value, digitChar (value / 45), digitChar (value / 45 / 45)] := rfl
@[simp] theorem emitTrailingByte_status (value : Nat) : (emitTrailingByte value).status = .ok := rfl
@[simp] theorem emitTrailingByte_units (value : Nat) :
    (emitTrailingByte value).units = [digitChar value, digitChar (value / 45)] := rfl
@[simp] theorem emitTriple_status (triple : Nat) : (emitTriple triple).status = .ok := rfl
@[simp] theorem emitTriple_units (triple : Nat) : (emitTriple triple).units = [tripleHigh triple, tripleLow triple] := rfl

end Sys2Proof.Machine
end

