-- ==== Sys2Proof/Laws/Values.lean ====
section
/-! SUPPORT. The group values and the ROM look-ups as arithmetic on natural numbers. -/

namespace Sys2Proof.Machine

/-- Shifting and joining two bytes is weighing them by 256. -/
theorem bytePairValue_eq (b0 b : Byte) : bytePairValue b0 b = b0.toNat * 256 + b.toNat := by
  have h0 := b0.isLt
  have h1 := b.isLt
  have hs : (b0.setWidth 16 <<< 8 : BitVec 16).toNat = b0.toNat <<< 8 := by
    simp [BitVec.toNat_shiftLeft, Nat.shiftLeft_eq]
    omega
  have hb : (b.setWidth 16 : BitVec 16).toNat = b.toNat := by simp; omega
  rw [bytePairValue, BitVec.toNat_or, hs, hb, ← Nat.shiftLeft_add_eq_or_of_lt h1, Nat.shiftLeft_eq]

theorem bytePairValue_le (b0 b : Byte) : bytePairValue b0 b ≤ 65535 := by
  have h0 := b0.isLt
  have h1 := b.isLt
  rw [bytePairValue_eq]
  omega

theorem trailingByteValue_eq (b : Byte) : trailingByteValue b = b.toNat := by
  have h := b.isLt
  simp [trailingByteValue]
  omega

/-- A value's high byte, when it has 16 bits. -/
theorem tripleHigh_eq (t : Nat) : tripleHigh t = BitVec.ofNat 8 (t / 256) := by
  simp [tripleHigh, Nat.shiftRight_eq_div_pow]

theorem tripleLow_eq (t : Nat) : tripleLow t = BitVec.ofNat 8 (t % 256) := by
  have h : t &&& 255 = t % 256 := Nat.and_two_pow_sub_one_eq_mod t 8
  rw [tripleLow, h]

/-- Every value the ROM answers is an alphabet value (R106). -/
theorem romValue_le : ∀ {c : Byte} {v : Value}, romValue c = some v → v.toNat ≤ 44 := by decide

end Sys2Proof.Machine
end

