-- ==== Sys2Proof/Tests/Slice0.lean ====
section
/-! SUPPORT. The model's own tests: expected results are copied from spec/95_test_vectors.md or computed by hand from the
cited rules. After them, one witness for the hypotheses of each statement. -/

namespace Sys2Proof.Tests

open Sys2Proof.Machine Sys2Proof.Safety

/-! ### Well-formedness: each check of R75 refuses an ill-formed term -/

theorem test_unassigned_opcode_refused : ([0x0, 0x3, 0x7, 0xB, 0xE, 0xF] : List (BitVec 4)).all (fun op =>
    !(Fields.opAssigned ⟨op, 0, 0⟩) && !(Fields.legal ⟨op, 0, 0⟩)) = true := by decide
theorem test_reserved_bits_refused : Fields.rsvClear ⟨0x4, 1, 0⟩ = false ∧ Fields.legal ⟨0x4, 1, 0⟩ = false := by decide
theorem test_stray_data_refused : Fields.dataAllowed ⟨0xA, 0, 1⟩ = false ∧ Fields.legal ⟨0xA, 0, 1⟩ = false := by decide
theorem test_wellFormed : (Instr.decConsume 0xFF).wellFormed = true ∧ Instr.sizeEnc.wellFormed = true := by decide

/-! ### Decoding: words written out bit by bit from R71 and R72, as op, rsv, data -/

theorem test_decode_romValueOf : decode 0b0001_0000_00111010 = .ok (.romValueOf 0x3A) := by decide
theorem test_decode_romCharOf : decode 0b0010_0000_00101100 = .ok (.romCharOf 44) := by decide
theorem test_decode_encReset : decode 0b0100_0000_00000000 = .ok .encReset := by decide
theorem test_decode_encConsume : decode 0b0101_0000_01000001 = .ok (.encConsume 0x41) := by decide
theorem test_decode_encFinalize : decode 0b0110_0000_00000000 = .ok .encFinalize := by decide
theorem test_decode_decReset : decode 0b1000_0000_00000000 = .ok .decReset := by decide
theorem test_decode_decConsume : decode 0b1001_0000_00100000 = .ok (.decConsume 0x20) := by decide
theorem test_decode_decFinalize : decode 0b1010_0000_00000000 = .ok .decFinalize := by decide
theorem test_decode_sizeDecMax : decode 0b1100_0000_00000000 = .ok .sizeDecMax := by decide
theorem test_decode_sizeEnc : decode 0b1101_0000_00000000 = .ok .sizeEnc := by decide
/-- 95_test_vectors.md section 2.5. -/
theorem test_decode_illegal : ([0x0000, 0x3000, 0x7000, 0xB000, 0xE000, 0xF0FF, 0x4100, 0x4001, 0xA001, 0xC001, 0x9100] :
    List Word).all (fun w => (decode w).toOption = none) = true := by decide
theorem test_decodeTableWord : decodeTableWord 16 0x9038 = some (.decConsume 0x38) ∧ decodeTableWord 16 0x9138 = none := by
  decide

/-! ### One step each: the response word, and the registers left (95_test_vectors.md sections 2.1 to 2.4) -/

/-- A state with the given registers and length operand. -/
def at_ (enc : EncRegs) (dec : DecRegs) (lenIn : Length) : State :=
  { State.reset with enc := enc, dec := dec, ports := ⟨false, 0, lenIn⟩ }

/-- A decoder that has not failed, with the given buffer. -/
def holding (count : DecCount) (v0 v1 : Value) : State := at_ .reset ⟨count, v0, v1, false, 0, 0⟩ 0

/-- A decoder that has failed, with the given latch and an empty buffer. -/
def failedWith (st : BitVec 3) (detail : BitVec 2) : State := at_ .reset ⟨.zero, 0, 0, true, st, detail⟩ 0

/-- The encoder with a pending byte. -/
def pendingByte (b : Byte) : State := at_ ⟨true, b⟩ .reset 0

/-- The idle CORE with a length operand. -/
def withLen (n : Nat) : State := at_ .reset .reset (BitVec.ofNat 32 n)

/-- The CORE after the next step on a word, or before it if the step stops. -/
def stepOn (w : Nat) (s : State) : State :=
  match step (s.withFetchWord 16 w) with
  | .next t => t
  | .fault _ => s
  | .refused _ => s

theorem test_romValueOf_hit : portRsp (stepOn 0x1020 .reset) = 0x0000002400000080 := by decide
theorem test_romValueOf_miss : portRsp (stepOn 0x1061 .reset) = 0x0000000000000000 := by decide
theorem test_romCharOf_hit : portRsp (stepOn 0x202C .reset) = 0x0000003A00000080 := by decide
theorem test_romCharOf_miss : portRsp (stepOn 0x202D .reset) = 0x0000000000000000 := by decide
theorem test_encReset : (stepOn 0x4000 (pendingByte 0x41)).enc = ⟨false, 0⟩ ∧
    portRsp (stepOn 0x4000 (pendingByte 0x41)) = 0 := by decide
theorem test_encConsume_first : (stepOn 0x5041 .reset).enc = ⟨true, 0x41⟩ ∧ portRsp (stepOn 0x5041 .reset) = 0 := by decide
theorem test_encConsume_group : (stepOn 0x5042 (pendingByte 0x41)).enc = ⟨false, 0⟩ ∧
    portRsp (stepOn 0x5042 (pendingByte 0x41)) = 0x0000000038424260 := by decide
theorem test_encFinalize_trailing : portRsp (stepOn 0x6000 (pendingByte 0x21)) = 0x0000000000305840 := by decide
theorem test_encFinalize_empty : portRsp (stepOn 0x6000 .reset) = 0 := by decide
theorem test_decReset_leaves_failure : (stepOn 0x8000 (failedWith 1 2)).dec = DecRegs.reset := by decide
theorem test_decConsume_triple : portRsp (stepOn 0x9038 (holding .two 11 11)) = 0x0000000000424140 ∧
    (stepOn 0x9038 (holding .two 11 11)).dec = DecRegs.reset := by decide
theorem test_decConsume_tripleTooLarge : portRsp (stepOn 0x9057 (holding .two 16 16)) = 0x0000000000000011 ∧
    (stepOn 0x9057 (holding .two 16 16)).dec = ⟨.two, 16, 16, true, 1, 2⟩ := by decide
theorem test_decFinalize_pair : portRsp (stepOn 0xA000 (holding .two 33 0)) = 0x0000000000002120 := by decide
theorem test_decFinalize_failedBefore : portRsp (stepOn 0xA000 (failedWith 1 1)) = 0x000000010000000C := by decide
theorem test_sizeDecMax : portRsp (stepOn 0xC000 (withLen 4294967295)) = 0xAAAAAAAA00000000 := by decide
theorem test_sizeEnc_threshold : portRsp (stepOn 0xD000 (withLen 1431655764)) = 0x7FFFFFFE00000000 := by decide
theorem test_sizeEnc_above : portRsp (stepOn 0xD000 (withLen 1431655765)) = 0x0000000000000003 := by decide
/-- 95_test_vectors.md section 2.4, the other values of `MAX_LEN`. -/
theorem test_sizeEnc_maxLen : (encSizeResponse 8 4).result = 6 ∧ (encSizeResponse 8 5).status = .sizeExceedsMaximum ∧
    (encSizeResponse 9 6).result = 9 ∧ (encSizeResponse 9 7).status = .sizeExceedsMaximum := by decide
theorem test_illegal_word : portRsp (stepOn 0x4001 (pendingByte 0x41)) = 5 ∧
    (stepOn 0x4001 (pendingByte 0x41)).enc = ⟨true, 0x41⟩ := by decide
theorem test_rst : ∃ t, step ((failedWith 1 2).facing [⟨true, 0x5041, 0⟩]) = .next t ∧ t.enc = EncRegs.reset ∧
    t.dec = DecRegs.reset ∧ portRsp t = 0 := ⟨_, rfl, by decide⟩

/-! ### Witnesses: a concrete state and operands that meet the hypotheses of each statement, clause by clause -/

theorem witness_DecodeAndEncodeAgree : decode 0x50FF = .ok (.encConsume 0xFF) := by decide
/-- One word for each of R75's conditions, at the edges of their ranges; 0x4000 is legal. -/
theorem witness_IllegalWordsChangeNothing :
    0xF0FF / 4096 ∈ [0x0, 0x3, 0x7, 0xB, 0xE, 0xF] ∧ 0x9100 / 256 % 16 ≠ 0 ∧ 0x9F00 / 256 % 16 ≠ 0 ∧
    (0xD001 / 4096 ∈ [0x4, 0x6, 0x8, 0xA, 0xC, 0xD] ∧ 0xD001 % 256 ≠ 0) ∧ (decode 0x4000).toOption = some .encReset ∧
    (State.reset.facing [⟨false, 0xF0FF, 0⟩]).pending = ⟨false, 0xF0FF, 0⟩ :: [] := by decide
theorem witness_StepRunsDecodedCommand : (State.reset.facing [⟨false, 0xA000, 0⟩]).pending = ⟨false, 0xA000, 0⟩ :: [] ∧
    decode 0xA000 = .ok .decFinalize := by decide
theorem witness_EveryHostMoveIsAnswered : (State.reset.facing [⟨true, 0x3000, 7⟩]).pending = ⟨true, 0x3000, 7⟩ :: [] ∧
    State.reset.pending = [] := by decide
theorem witness_IllegalWordLeavesNextCommand : decode 0x3000 = .error (.unassignedOpcode 0x3) := by decide
/-- Each status on a step. -/
theorem witness_StatusRaisedByItsCommands :
    (stepOn 0x905E .reset).rsp.status = .malformedEncoding ∧ (stepOn 0xA000 (holding .one 11 0)).rsp.status = .truncatedInput ∧
    (stepOn 0xD000 (withLen 4294967295)).rsp.status = .sizeExceedsMaximum ∧
    (stepOn 0xA000 (failedWith 2 0)).rsp.status = .instanceFailed ∧ (stepOn 0x3000 .reset).rsp.status = .illegalCommand := by
  decide
theorem witness_DetailNamesTheCause :
    (∃ t, exec (.decConsume 0x5E) .reset = .next t ∧ t.rsp.status = .malformedEncoding ∧ t.rsp.detail = 1) ∧
    (∃ t, exec (.decConsume 0x57) (holding .two 16 16) = .next t ∧ t.rsp.status = .malformedEncoding ∧ t.rsp.detail = 2) ∧
    (∃ t, exec .decFinalize (holding .two 31 5) = .next t ∧ t.rsp.status = .malformedEncoding ∧ t.rsp.detail = 3) ∧
    (∃ t, exec .decFinalize (failedWith 1 3) = .next t ∧ t.rsp.status = .instanceFailed ∧ t.rsp.detail = 3) ∧
    (∃ t, exec .encReset .reset = .next t ∧ t.rsp.status ≠ .malformedEncoding ∧ t.rsp.status ≠ .instanceFailed) :=
  ⟨⟨_, rfl, by decide⟩, ⟨_, rfl, by decide⟩, ⟨_, rfl, by decide⟩, ⟨_, rfl, by decide⟩, ⟨_, rfl, by decide⟩⟩
/-- Responses with 0, 1, 2 and 3 units. -/
theorem witness_OutputLanesInOrder :
    (∃ t, exec .encReset .reset = .next t ∧ t.rsp.n = 0) ∧ (∃ t, exec .decFinalize (holding .two 30 5) = .next t ∧ t.rsp.n = 1) ∧
    (∃ t, exec .encFinalize (pendingByte 0xFF) = .next t ∧ t.rsp.n = 2) ∧
    (∃ t, exec (.encConsume 0xFF) (pendingByte 0xFF) = .next t ∧ t.rsp.n = 3) :=
  ⟨⟨_, rfl, by decide⟩, ⟨_, rfl, by decide⟩, ⟨_, rfl, by decide⟩, ⟨_, rfl, by decide⟩⟩
theorem witness_UnsetResponseFieldsAreZero :
    (∃ t, exec (.romCharOf 44) .reset = .next t ∧ t.rsp.hit = true ∧ t.rsp.result ≠ 0) ∧
    (∃ t, exec (.decConsume 0x5E) .reset = .next t ∧ t.rsp.detail ≠ 0) ∧
    (∃ t, exec (.encConsume 0) (pendingByte 0) = .next t ∧ t.rsp.n ≠ 0) ∧
    (∃ t, exec (.decConsume 0x42) .reset = .next t ∧ t.rsp.n.toNat ≤ 0) ∧
    (∃ t, exec .decFinalize (holding .two 30 5) = .next t ∧ t.rsp.n.toNat = 1) ∧
    (∃ t, exec .encFinalize (pendingByte 0xFF) = .next t ∧ t.rsp.n.toNat = 2) :=
  ⟨⟨_, rfl, by decide⟩, ⟨_, rfl, by decide⟩, ⟨_, rfl, by decide⟩, ⟨_, rfl, by decide⟩, ⟨_, rfl, by decide⟩,
    ⟨_, rfl, by decide⟩⟩
/-- Two hosts that differ in `len_in` at an encoder command and agree at a size command. -/
theorem witness_LenInReadOnlyBySizeCommands :
    List.Forall₂ (fun p q : Ports => q.rst = p.rst ∧ q.cmd = p.cmd ∧
      (p.rst = false → (decode p.cmd = .ok .sizeDecMax ∨ decode p.cmd = .ok .sizeEnc) → q.lenIn = p.lenIn))
      [⟨false, 0x5041, 1⟩, ⟨false, 0xD000, 7⟩] [⟨false, 0x5041, 2⟩, ⟨false, 0xD000, 7⟩] :=
  .cons ⟨rfl, rfl, fun _ h => absurd h (by decide)⟩ (.cons ⟨rfl, rfl, fun _ _ => rfl⟩ .nil)
/-- The first and the last value of each of the three ranges. -/
theorem witness_CharRomContents : ((0 : Fin 45).val ≤ 9 ∧ (9 : Fin 45).val ≤ 9) ∧
    (10 ≤ (10 : Fin 45).val ∧ (35 : Fin 45).val ≤ 35) ∧ (36 ≤ (36 : Fin 45).val ∧ 36 ≤ (44 : Fin 45).val) := by decide
/-- A code of each rejected kind, at the edges of the ranges, and one beside the alphabet. -/
theorem witness_ValueRomContents : (∀ v : Fin 45, romChar v ≠ 0x3B) ∧ (0x09#8).toNat ∈ [0x09, 0x0A, 0x0B, 0x0C, 0x0D, 0x3D] ∧
    0x61 ≤ (0x61#8).toNat ∧ (0x7A#8).toNat ≤ 0x7A ∧ 0x80 ≤ (0x80#8).toNat ∧ 0x80 ≤ (0xFF#8).toNat := by decide
theorem witness_RomTablesAreInverse : romValue 0x30 = some 0 ∧ romValue 0x3A = some 44 := by decide
theorem witness_RomValueOfResult : romValue 0x5A = some 35 ∧ romValue 0x5B = none ∧ (0x1F#8).toNat < 0x20 := by decide
theorem witness_RomCharOfResult : (44 : Fin 45).val = (44#8).toNat ∧ 45 ≤ (45#8).toNat ∧ 45 ≤ (255#8).toNat := by decide
theorem witness_EncConsumeResult : State.reset.enc.pend = false ∧ (pendingByte 0).enc = ⟨true, 0x00⟩ ∧
    (pendingByte 0xFF).enc = ⟨true, 0xFF⟩ ∧ (pendingByte 0x6C).enc = ⟨true, 0x6C⟩ ∧ (pendingByte 0x41).enc = ⟨true, 0x41⟩ := by
  decide
theorem witness_EncFinalizeResult : State.reset.enc.pend = false ∧ (pendingByte 0x21).enc = ⟨true, 0x21⟩ ∧
    ∃ t u, exec .encFinalize (pendingByte 0x21) = .next t ∧ exec .encFinalize t = .next u :=
  ⟨rfl, rfl, _, _, rfl, rfl⟩
theorem witness_EncoderNeverFails : isEncoder .encReset = true ∧ isEncoder (.encConsume 0xFF) = true ∧
    isEncoder .encFinalize = true := by decide
theorem witness_EncodedLengthLaw : (withLen 1).ports.lenIn.toNat = [0xFF#8].length ∧
    ∃ t, exec .sizeEnc (withLen 1) = .next t ∧ t.rsp.status = .ok := ⟨by decide, _, rfl, by decide⟩
theorem witness_DecResetResult : (failedWith 1 2).dec.fail = true ∧
    ∃ t, exec .decReset (failedWith 1 2) = .next t ∧ t.dec.fail = false := ⟨rfl, _, rfl, rfl⟩
/-- Each arm; `FGW` is the largest accepted triple and `GGW` the smallest rejected one. -/
theorem witness_DecConsumeResult : (failedWith 1 2).dec.fail = true ∧ romValue 0x5E = none ∧ romValue 0x57 = some 32 ∧
    (holding .zero 0 0).dec.count = .zero ∧ (holding .one 11 0).dec.count = .one ∧ (holding .two 15 16).dec.count = .two ∧
    15 + 16 * 45 + 32 * 2025 ≤ 65535 ∧ 65535 < 16 + 16 * 45 + 32 * 2025 ∧ (holding .two 15 16).dec.fail = false ∧
    (0x61#8).toNat ≤ 0x7A := by decide
/-- Each arm; `U5` is the largest accepted pair and `V5` the smallest rejected one. -/
theorem witness_DecFinalizeResult : (failedWith 1 2).dec.fail = true ∧ (holding .zero 0 0).dec.count = .zero ∧
    (holding .one 11 0).dec.count = .one ∧ (holding .two 30 5).dec.count = .two ∧ (holding .two 30 5).dec.fail = false ∧
    30 + 5 * 45 ≤ 255 ∧ 255 < 31 + 5 * 45 ∧
    ∃ t u, exec .decFinalize (holding .two 30 5) = .next t ∧ t.rsp.status = .ok ∧ exec .decFinalize t = .next u :=
  ⟨rfl, rfl, rfl, rfl, rfl, by decide, by decide, _, _, rfl, by decide, rfl⟩
theorem witness_FailureEntryIsPrecise :
    (∃ t, exec (.decConsume 0x5E) (holding .two 9 2) = .next t ∧ t.rsp.status = .malformedEncoding) ∧
    (∃ t, exec .decFinalize (holding .one 11 0) = .next t ∧ t.rsp.status = .truncatedInput) :=
  ⟨⟨_, rfl, by decide⟩, ⟨_, rfl, by decide⟩⟩
theorem witness_FailedDecoderOnlyReports : (failedWith 1 2).dec.fail = true ∧
    ∃ t, step ((failedWith 1 2).facing [⟨false, 0x8000, 0⟩]) = .next t ∧ t.dec.fail = false := ⟨rfl, _, rfl, rfl⟩
theorem witness_FailureLastsUntilReset :
    (∃ t, step ((failedWith 1 2).facing [⟨false, 0x8000, 0⟩]) = .next t) ∧
    (∃ t, step ((failedWith 1 2).facing [⟨true, 0x9030, 0⟩]) = .next t) ∧
    (failedWith 1 2).dec.fail = true ∧ decode 0x8000 = .ok .decReset ∧
    ∀ p ∈ [(⟨false, 0x9030, 0⟩ : Ports), ⟨false, 0xA000, 0⟩], p.rst = false ∧ decode p.cmd ≠ .ok .decReset :=
  ⟨⟨_, rfl⟩, ⟨_, rfl⟩, rfl, by decide, by decide⟩
theorem witness_FailureDeliversNothing :
    ∃ t, step ((holding .two 16 16).facing [⟨false, 0x9057, 0⟩]) = .next t ∧ t.rsp.status ≠ .ok := ⟨_, rfl, by decide⟩
/-- A failed decoder given an illegal word, a code outside the alphabet, and a finalize; and a decoder that has not failed
given a third value with each outcome. -/
theorem witness_FailurePriority : (failedWith 1 2).dec.fail = true ∧ decode 0x9100 = .error (.reservedBitsSet 1) ∧
    decode 0x905E = .ok (.decConsume 0x5E) ∧ romValue 0x5E = none ∧ decode 0xA000 = .ok .decFinalize ∧
    decode 0x9057 = .ok (.decConsume 0x57) ∧ romValue 0x57 = some 32 ∧ (holding .two 16 16).dec.fail = false ∧
    (holding .two 16 16).dec.count = .two ∧ (holding .one 11 0).dec.count = .one ∧ (holding .zero 0 0).dec.count = .zero := by
  decide
/-- `B`, of length 1, on which no MALFORMED_ENCODING comes first. -/
theorem witness_TruncatedOnlyAtFinalize : [0x42#8].length % 3 = 1 ∧
    streamEnd (responses (State.reset.facing (commandMoves 0 (decStream [0x42])))) = .failure .truncatedInput 0 := by decide
theorem witness_GroupCheckedOnlyWhenComplete : (holding .one 44 0).dec.fail = false ∧ romValue 0x3A = some 44 ∧
    (holding .one 44 0).dec.count ≠ .two := by decide
theorem witness_DecoderDatapathBounds : (44 : Value).toNat ≤ 44 ∧ tripleValue 15 16 32 ≤ 65535 ∧ pairValue 30 5 ≤ 255 := by
  decide
theorem witness_DecodeStreamOutcome : (decodeCodes [0x55, 0x35]).2 = .success := by decide
theorem witness_StreamRoundTrip : AllOk (responses (State.reset.facing (commandMoves 0 (decStream [0x55, 0x35])))) := by decide
theorem witness_SizeEncResult : (withLen 1431655764).ports.lenIn.toNat = 1431655764 ∧
    (withLen 1431655765).ports.lenIn.toNat = 1431655765 ∧ (withLen 7).ports.lenIn.toNat = 7 ∧
    (withLen 0).config = Config.standard ∧ Config.standard.maxLen / 3 * 2 = 1431655764 := by decide
theorem witness_CombinatorialOutputsAgree : portEncOvf (withLen 1431655765) = true ∧ portEncOvf (withLen 1431655764) = false ∧
    (∃ t, exec .sizeDecMax (withLen 1) = .next t) ∧ ∃ t, exec .sizeEnc (withLen 1) = .next t :=
  ⟨by decide, by decide, ⟨_, rfl⟩, _, rfl⟩
theorem witness_SizeEncStaysWithinMaxLen : (⟨8, by decide, by decide⟩ : Config).maxLen % 3 = 2 ∧
    (⟨9, by decide, by decide⟩ : Config).maxLen % 3 ≠ 2 ∧
    ∃ t, exec .sizeEnc (withLen 1431655764) = .next t ∧ t.rsp.status = .ok := ⟨by decide, by decide, _, rfl, by decide⟩
theorem witness_SizesBoundTheStreams : (withLen 2).ports.lenIn.toNat = [0x55#8, 0x35#8].length ∧
    [0x55#8, 0x35#8].length ≤ (withLen 2).config.maxLen / 3 * 2 ∧
    AllOk (responses (State.reset.facing (commandMoves 0 (decStream [0x55, 0x35])))) := by decide
theorem witness_RegisterAccessByCommand :
    (∃ t, exec .decFinalize (holding .two 30 5) = .next t ∧ t.rsp.status = .ok) ∧
    (∃ t, exec .decFinalize (holding .two 31 5) = .next t ∧ t.rsp.status ≠ .ok) ∧
    (isEncoder .encReset = true ∧ isDecoder .decReset = true ∧ isSize .sizeEnc = true ∧ isEncoder (.romCharOf 0) = false ∧
      isDecoder (.romCharOf 0) = false ∧ isSize (.romCharOf 0) = false) :=
  ⟨⟨_, rfl, by decide⟩, ⟨_, rfl, by decide⟩, by decide⟩
theorem witness_ResetSources :
    ((failedWith 1 2).facing [⟨true, 0x3000, 0⟩, ⟨false, 0x9030, 0⟩]).pending = ⟨true, 0x3000, 0⟩ :: ⟨false, 0x9030, 0⟩ :: [] ∧
    decode 0x9030 = .ok (.decConsume 0x30) := by decide
theorem witness_StepKeepsLegal : Legal ((holding .one 11 0).facing [⟨false, 0x9042, 0⟩]) ∧
    ∃ t, step ((holding .one 11 0).facing [⟨false, 0x9042, 0⟩]) = .next t ∧ t.dec.count = .two := ⟨by decide, _, rfl, by decide⟩
theorem witness_LatchAlwaysExplained : LatchExplained ((holding .two 31 5).facing [⟨false, 0xA000, 0⟩]).dec ∧
    ∃ t, step ((holding .two 31 5).facing [⟨false, 0xA000, 0⟩]) = .next t ∧ t.dec.fail = true := ⟨by decide, _, rfl, by decide⟩
theorem witness_FinalizeLeavesResetState : Legal (holding .two 31 5) ∧ Legal (holding .two 30 5) := by decide
theorem witness_WideCharactersMiss : 'A'.toNat < 256 ∧ 256 ≤ 'İ'.toNat ∧ ∃ c ∈ ['0', 'İ'], 256 ≤ c.toNat :=
  ⟨by decide, by simp, 'İ', by simp, by simp⟩
theorem witness_AssemblerReadsCommands : '\''.toNat < 256 ∧ ';'.toNat < 256 := by decide
/-- A unit in each of the three spellings, at the edges of its range, and a text. -/
theorem witness_AssemblerExpandsStreams :
    (SpellsUnit ['0'] 0 ∧ SpellsUnit ['2', '5', '5'] 255 ∧ SpellsUnit ['0', 'x', 'f', 'f'] 255 ∧
      SpellsUnit ['\'', ',', '\''] 0x2C) ∧
    ∀ c ∈ ['%', '6', ' ', ';'], c.toNat < 256 ∧ c ≠ '"' :=
  ⟨⟨.inr (.inl rfl), .inr (.inl rfl), .inr (.inr rfl), .inl ⟨',', rfl, rfl⟩⟩, by simp⟩
/-- R83's first form with each spelling of a unit (R82); the list is the text's own. -/
theorem test_assemble_unitList : assembleLine "ENC_STREAM 1, 0xFF, 'A'".toList =
    .ok ((encStream [1, 0xFF, 0x41]).map fun i => ⟨i, none⟩) := by decide

end Sys2Proof.Tests
end

section
/-! SUPPORT. The host's moves: each is taken by one step, which answers it, and a run takes them all in order
(spec 00_scope.md R11, 20_memory.md R60; log entry 1). -/

namespace Sys2Proof.Machine

open Sys2Proof.Safety

variable {s t : State} {p : Ports} {rest : List Ports}

/-! ### One step -/

/-- A step puts the next move on the ports and does what the levels there say. -/
theorem step_of_pending_cons (hp : s.pending = p :: rest) :
    step s = runPorts { s with ports := p, pending := rest } := by
  simp [step, nextMove, hp]

theorem step_of_pending_nil (hp : s.pending = []) : step s = .fault .noHostMove := by
  simp [step, nextMove, hp]

theorem runPorts_of_decode {i : Instr} (hr : s.ports.rst = false) (hd : decode s.ports.cmd = .ok i) :
    runPorts s = exec i s := by
  simp [runPorts, hr, hd]

/-- No way for a command to act touches the ports, the host's moves or the parameters. -/
theorem Effect.sameSurroundings {i : Instr} (h : Effect i s t) : SameSurroundings s t := by
  cases h <;> exact ⟨rfl, rfl, rfl⟩

theorem exec_next_sameSurroundings (i : Instr) (s : State) : ∃ t, exec i s = .next t ∧ SameSurroundings s t := by
  obtain ⟨t, ht, heff⟩ := exec_effect i s
  exact ⟨t, ht, heff.sameSurroundings⟩

/-- Whatever the levels on the ports, the CORE answers them, and `rst` and an illegal word leave the surroundings alone
as every command does. -/
theorem runPorts_next_sameSurroundings (s : State) : ∃ t, runPorts s = .next t ∧ SameSurroundings s t := by
  rcases runPorts_cases s with ⟨-, he⟩ | ⟨-, i, -, he⟩ | ⟨-, e, -, he⟩ <;> rw [he]
  · exact ⟨_, rfl, rfl, rfl, rfl⟩
  · exact exec_next_sameSurroundings i s
  · exact ⟨_, rfl, rfl, rfl, rfl⟩

theorem step_next_of_pending_cons (hp : s.pending = p :: rest) :
    ∃ t, step s = .next t ∧ t.ports = p ∧ t.pending = rest ∧ t.config = s.config := by
  rw [step_of_pending_cons hp]
  exact runPorts_next_sameSurroundings _

/-! ### Runs -/

theorem run_succ_of_step (k : Nat) (h : step s = .next t) :
    Host.Core.run core (k + 1) s = Host.Core.run core k t := by
  have hcore : core.step s = .next t := h
  simp only [Host.Core.run, hcore]

theorem trace_succ_of_step (k : Nat) (h : step s = .next t) : trace (k + 1) s = (t.ports, t.rsp) :: trace k t := by
  simp only [trace, h]

theorem after_succ_of_step (k : Nat) (h : step s = .next t) : after (k + 1) s = after k t := by
  simp only [after, h]

/-- A run of as many steps as there are moves takes each of them, and the trace and the end state are that run's. -/
theorem run_takes_every_move (moves : List Ports) (s : State) (hs : s.pending = moves) :
    ∃ t : State, Host.Core.run core moves.length s = .next t ∧ t.pending = [] ∧ t.config = s.config ∧
      (trace moves.length s).map Prod.fst = moves ∧ after moves.length s = t := by
  induction moves generalizing s with
  | nil => exact ⟨s, rfl, hs, rfl, rfl, rfl⟩
  | cons p rest ih =>
    obtain ⟨u, hstep, hports, hpending, hconfig⟩ := step_next_of_pending_cons hs
    obtain ⟨t, hrun, hend, hkept, htrace, hafter⟩ := ih u hpending
    refine ⟨t, ?_, hend, hkept.trans hconfig, ?_, ?_⟩
    · rw [List.length_cons, run_succ_of_step _ hstep, hrun]
    · rw [List.length_cons, trace_succ_of_step _ hstep, List.map_cons, hports, htrace]
    · rw [List.length_cons, after_succ_of_step _ hstep, hafter]

/-! ### The statements -/

/-- Settles O7: with a move left the step is `runPorts`, which answers in each of its three cases; with none it is the
fault. -/
theorem everyHostMoveIsAnswered : Obligations.EveryHostMoveIsAnswered :=
  ⟨fun _ _ _ => step_next_of_pending_cons, fun _ => step_of_pending_nil⟩

/-- Settles O8, by induction on the host's moves. -/
theorem runsReachTheLastMove : Obligations.RunsReachTheLastMove :=
  fun s => run_takes_every_move s.pending s rfl

/-- Settles O5: a step is `runPorts` at the next move, and `runPorts` executes a word that decodes while `rst` is
released. -/
theorem stepRunsDecodedCommand : Obligations.StepRunsDecodedCommand := by
  intro s p rest i hp hr hd
  rw [step_of_pending_cons hp]
  exact runPorts_of_decode hr hd

end Sys2Proof.Machine
end

section
/-! SUPPORT. What each command writes and what it reads (spec 10_state.md R32, R34): the frame of each unit's commands, and
their dependence on that unit's registers alone. -/

namespace Sys2Proof.Machine

open Sys2Proof.Safety

variable {i : Instr} {s s' t t' : State}

/-! ### A way of acting determines the outcome -/

/-- The converse of `effect_of_exec`: a command acts in the way whose condition holds. -/
theorem Effect.exec_eq (h : Effect i s t) : exec i s = .next t := by
  cases h
  case valueFound h | valueMissed h => simp [exec, execRomValueOf, h]
  case charFound k h => simp [exec, execRomCharOf, ← h, Nat.le_of_lt_succ k.isLt]
  case charMissed h => simp [exec, execRomCharOf, Nat.not_le.mpr h]
  case encReset | decReset | decSized => rfl
  case byteHeld h | groupEncoded h => simp [exec, execEncConsume, h]
  case encEndedEmpty h | trailingEncoded h => simp [exec, execEncFinalize, h]
  case consumeFailedBefore hf => simp [exec, execDecConsume, hf]
  case notInAlphabet h hf => simp [exec, execDecConsume, hf, h, detailNotInAlphabet]
  case firstHeld h hf hc | secondHeld h hf hc => simp [exec, execDecConsume, acceptValue, hf, h, hc]
  case tripleDecoded h hf hc ht =>
    simp [exec, execDecConsume, acceptValue, completeTriple, hf, h, hc, Nat.not_lt.mpr ht]
  case tripleTooLarge h hf hc ht =>
    simp [exec, execDecConsume, acceptValue, completeTriple, hf, h, hc, ht, detailTripleRange]
  case finalizeFailedBefore hf => simp [exec, execDecFinalize, hf]
  case decEndedEmpty hf hc | truncated hf hc => simp [exec, execDecFinalize, hf, hc]
  case pairDecoded hf hc hp => simp [exec, execDecFinalize, completePair, hf, hc, Nat.not_lt.mpr hp]
  case pairTooLarge hf hc hp => simp [exec, execDecFinalize, completePair, hf, hc, hp, detailPairRange]
  case encSized h => simp [exec, execSizeEnc, encSizeResponse, Nat.not_lt.mpr h]
  case encSizeTooLarge h => simp [exec, execSizeEnc, encSizeResponse, h]

theorem Effect.unique (h : Effect i s t) (h' : Effect i s t') : t = t' := by
  simpa using h.exec_eq.symm.trans h'.exec_eq

/-! ### What a command leaves unchanged -/

theorem Effect.enc_eq_of_not_encoder (h : Effect i s t) (hi : isEncoder i = false) : t.enc = s.enc := by
  cases h <;> simp [isEncoder] at hi ⊢

theorem Effect.dec_eq_of_not_decoder (h : Effect i s t) (hi : isDecoder i = false) : t.dec = s.dec := by
  cases h <;> simp [isDecoder] at hi ⊢

/-- Only a failure sets the latch, and only DEC_RESET clears it. -/
theorem Effect.latch_eq_of_ok (h : Effect i s t) (hi : i ≠ .decReset) (hok : t.rsp.status = .ok) :
    t.dec.fail = s.dec.fail ∧ t.dec.errStatus = s.dec.errStatus ∧ t.dec.errDetail = s.dec.errDetail := by
  cases h <;> simp at hi hok ⊢

/-- A failure freezes the buffer (R197). -/
theorem Effect.buffer_eq_of_not_ok (h : Effect i s t) (hfail : t.rsp.status ≠ .ok) :
    t.dec.count = s.dec.count ∧ t.dec.v0 = s.dec.v0 ∧ t.dec.v1 = s.dec.v1 := by
  cases h <;> simp at hfail ⊢

/-! ### What a command reads

A command acts in the same way, and leaves the same registers and response, in every state that agrees on the registers of
its row. -/

theorem Effect.of_same_enc (h : Effect i s t) (hi : isEncoder i = true) (he : s'.enc = s.enc) :
    Effect i s' { s' with enc := t.enc, rsp := t.rsp } := by
  obtain ⟨e, d, p, r, ps, c⟩ := s'
  obtain rfl : e = s.enc := he
  cases h
  case encReset => exact .encReset _
  case byteHeld b h => exact .byteHeld b _ h
  case groupEncoded b h => exact .groupEncoded b _ h
  case encEndedEmpty h => exact .encEndedEmpty _ h
  case trailingEncoded h => exact .trailingEncoded _ h
  all_goals cases hi

theorem Effect.of_same_dec (h : Effect i s t) (hi : isDecoder i = true) (hd : s'.dec = s.dec) :
    Effect i s' { s' with dec := t.dec, rsp := t.rsp } := by
  obtain ⟨e, d, p, r, ps, c⟩ := s'
  obtain rfl : d = s.dec := hd
  cases h
  case decReset => exact .decReset _
  case consumeFailedBefore c hf => exact .consumeFailedBefore c _ hf
  case notInAlphabet c h hf => exact .notInAlphabet c _ hf h
  case firstHeld c v h hf hc => exact .firstHeld c v _ hf h hc
  case secondHeld c v h hf hc => exact .secondHeld c v _ hf h hc
  case tripleDecoded c v h hf hc ht => exact .tripleDecoded c v _ hf h hc ht
  case tripleTooLarge c v h hf hc ht => exact .tripleTooLarge c v _ hf h hc ht
  case finalizeFailedBefore hf => exact .finalizeFailedBefore _ hf
  case decEndedEmpty hf hc => exact .decEndedEmpty _ hf hc
  case truncated hf hc => exact .truncated _ hf hc
  case pairDecoded hf hc hp => exact .pairDecoded _ hf hc hp
  case pairTooLarge hf hc hp => exact .pairTooLarge _ hf hc hp
  all_goals cases hi

theorem Effect.of_same_lenIn (h : Effect i s t) (hi : isSize i = true) (hl : s'.ports.lenIn = s.ports.lenIn)
    (hc : s'.config = s.config) : Effect i s' { s' with rsp := t.rsp } := by
  obtain ⟨e, d, ⟨rst, cmd, len⟩, r, ps, c⟩ := s'
  obtain rfl : len = s.ports.lenIn := hl
  obtain rfl : c = s.config := hc
  cases h
  case decSized => exact .decSized _
  case encSized h => exact .encSized _ h
  case encSizeTooLarge h => exact .encSizeTooLarge _ h
  all_goals cases hi

/-- The commands of no other unit are the ROM's, and they read no state at all. -/
theorem Effect.of_rom (h : Effect i s t) (he : isEncoder i = false) (hd : isDecoder i = false) (hz : isSize i = false)
    (s' : State) : Effect i s' { s' with rsp := t.rsp } := by
  cases h
  case valueFound c v h => exact .valueFound c v _ h
  case valueMissed c h => exact .valueMissed c _ h
  case charFound v k h => exact .charFound v k _ h
  case charMissed v h => exact .charMissed v _ h
  case encReset | byteHeld | groupEncoded | encEndedEmpty | trailingEncoded => cases he
  case decSized | encSized | encSizeTooLarge => cases hz
  all_goals cases hd

theorem Effect.encoder_congr (h : Effect i s t) (h' : Effect i s' t') (hi : isEncoder i = true) (he : s'.enc = s.enc) :
    t'.enc = t.enc ∧ t'.rsp = t.rsp := by
  rw [h'.unique (h.of_same_enc hi he)]
  exact ⟨rfl, rfl⟩

theorem Effect.decoder_congr (h : Effect i s t) (h' : Effect i s' t') (hi : isDecoder i = true) (hd : s'.dec = s.dec) :
    t'.dec = t.dec ∧ t'.rsp = t.rsp := by
  rw [h'.unique (h.of_same_dec hi hd)]
  exact ⟨rfl, rfl⟩

theorem Effect.size_congr (h : Effect i s t) (h' : Effect i s' t') (hi : isSize i = true)
    (hl : s'.ports.lenIn = s.ports.lenIn) (hc : s'.config = s.config) : t'.rsp = t.rsp := by
  rw [h'.unique (h.of_same_lenIn hi hl hc)]

theorem Effect.rom_congr (h : Effect i s t) (h' : Effect i s' t') (he : isEncoder i = false) (hd : isDecoder i = false)
    (hz : isSize i = false) : t'.rsp = t.rsp := by
  rw [h'.unique (h.of_rom he hd hz s')]

theorem Effect.encReset_congr (h : Effect .encReset s t) (h' : Effect .encReset s' t') :
    t'.enc = t.enc ∧ t'.rsp = t.rsp := by
  cases h
  cases h'
  exact ⟨rfl, rfl⟩

theorem Effect.decReset_congr (h : Effect .decReset s t) (h' : Effect .decReset s' t') :
    t'.dec = t.dec ∧ t'.rsp = t.rsp := by
  cases h
  cases h'
  exact ⟨rfl, rfl⟩

/-! ### The statements -/

/-- Settles O47: the frame is read off the ways a command can act, and so is what it reads, since a way of acting carries
over to every state that agrees on the registers of the command's row. -/
theorem registerAccessByCommand : Obligations.RegisterAccessByCommand := by
  refine ⟨fun i s t h => ?_, fun i s s' => ?_⟩
  · have heff := effect_of_exec h
    refine ⟨heff.sameSurroundings, heff.enc_eq_of_not_encoder, heff.dec_eq_of_not_decoder, fun hi => ?_⟩
    have hreset : i ≠ .decReset := by rintro rfl; simp at hi
    exact ⟨heff.latch_eq_of_ok hreset, heff.buffer_eq_of_not_ok⟩
  · obtain ⟨t, ht, heff⟩ := exec_effect i s
    obtain ⟨t', ht', heff'⟩ := exec_effect i s'
    refine ⟨t, t', ht, ht', heff.encoder_congr heff', heff.decoder_congr heff', heff.size_congr heff',
      heff.rom_congr heff', ?_, ?_⟩
    · rintro rfl
      exact heff.encReset_congr heff'
    · rintro rfl
      exact heff.decReset_congr heff'

/-- Settles O50: the reset state is written out register by register. -/
theorem resetValues : Obligations.ResetValues :=
  ⟨rfl, rfl, rfl, rfl, rfl, rfl, rfl, rfl⟩

end Sys2Proof.Machine
end

section
/-! SUPPORT. The independence of the two transducers (spec 20_memory.md R61): what makes one unit's registers its own, and
why a run's other moves can then be left out. -/

namespace Sys2Proof.Machine

open Sys2Proof.Safety

variable {α : Type} {owns : Instr → Bool} {regs : State → α} {s s' t t' : State} {p : Ports} {rest rest' : List Ports}

/-! ### A unit and the moves that act on it -/

/-- A move that acts on the unit whose commands are those in `owns`: `rst`, or one of these commands. -/
def actsOn (owns : Instr → Bool) (p : Ports) : Bool :=
  p.rst || (match decode p.cmd with
    | .ok i => owns i
    | .error _ => false)

theorem actsOn_isEncoder : actsOn isEncoder = movesEncoder := rfl

theorem actsOn_isDecoder : actsOn isDecoder = movesDecoder := rfl

theorem actsOn_of_rst (hr : p.rst = true) : actsOn owns p = true := by
  simp [actsOn, hr]

theorem actsOn_of_decode {i : Instr} (hr : p.rst = false) (hd : decode p.cmd = .ok i) : actsOn owns p = owns i := by
  simp [actsOn, hr, hd]

theorem actsOn_of_illegal {e : Illegal} (hr : p.rst = false) (hd : decode p.cmd = .error e) :
    actsOn owns p = false := by
  simp [actsOn, hr, hd]

/-- The registers `regs` belong to the unit whose commands are those in `owns` (R32): no other command writes them, the
unit's own commands read nothing else, and `rst` gives them one value. They are no part of the host's side, and an
illegal word leaves them alone. -/
structure OwnRegisters (owns : Instr → Bool) (regs : State → α) : Prop where
  frame {i : Instr} {s t : State} : Effect i s t → owns i = false → regs t = regs s
  reads {i : Instr} {s s' t t' : State} : Effect i s t → Effect i s' t' → owns i = true → regs s' = regs s →
    regs t' = regs t ∧ t'.rsp = t.rsp
  rst (s s' : State) : regs (assertRst s') = regs (assertRst s)
  illegal (s : State) : regs (illegalCommand s) = regs s
  presented (s : State) (p : Ports) (rest : List Ports) : regs { s with ports := p, pending := rest } = regs s

theorem encoder_ownRegisters : OwnRegisters isEncoder State.enc where
  frame := Effect.enc_eq_of_not_encoder
  reads := Effect.encoder_congr
  rst _ _ := rfl
  illegal _ := rfl
  presented _ _ _ := rfl

theorem decoder_ownRegisters : OwnRegisters isDecoder State.dec where
  frame := Effect.dec_eq_of_not_decoder
  reads := Effect.decoder_congr
  rst _ _ := rfl
  illegal _ := rfl
  presented _ _ _ := rfl

/-! ### One step -/

/-- A move that does not act on the unit leaves its registers as they were. -/
theorem OwnRegisters.step_eq_of_other (own : OwnRegisters owns regs) (hp : s.pending = p :: rest)
    (hs : step s = .next t) (hother : actsOn owns p = false) : regs t = regs s := by
  rcases step_effect hp hs with ⟨hr, -⟩ | ⟨hr, i, hd, heff⟩ | ⟨-, -, -, rfl⟩
  · simp [actsOn_of_rst hr] at hother
  · rw [actsOn_of_decode hr hd] at hother
    exact (own.frame heff hother).trans (own.presented s p rest)
  · exact (own.illegal _).trans (own.presented s p rest)

/-- A move that acts on the unit does the same, and gets the same response, from any two states that agree on the unit's
registers. -/
theorem OwnRegisters.step_congr (own : OwnRegisters owns regs) (hp : s.pending = p :: rest)
    (hp' : s'.pending = p :: rest') (hs : step s = .next t) (hs' : step s' = .next t')
    (hown : actsOn owns p = true) (hregs : regs s' = regs s) : regs t' = regs t ∧ t'.rsp = t.rsp := by
  rcases step_effect hp hs with ⟨hr, rfl⟩ | ⟨hr, i, hd, heff⟩ | ⟨hr, e, hd, -⟩
  · rcases step_effect hp' hs' with ⟨-, rfl⟩ | ⟨hr', -⟩ | ⟨hr', -⟩
    · exact ⟨own.rst _ _, rfl⟩
    all_goals simp [hr] at hr'
  · rcases step_effect hp' hs' with ⟨hr', -⟩ | ⟨-, i', hd', heff'⟩ | ⟨-, e', hd', -⟩
    · simp [hr] at hr'
    · obtain rfl : i = i' := by simpa [hd] using hd'
      rw [actsOn_of_decode hr hd] at hown
      have hpresented : regs { s' with ports := p, pending := rest' } = regs { s with ports := p, pending := rest } :=
        (own.presented s' p rest').trans (hregs.trans (own.presented s p rest).symm)
      exact own.reads heff heff' hown hpresented
    · simp [hd] at hd'
  · simp [actsOn_of_illegal hr hd] at hown

/-! ### Runs -/

theorem fullTrace_of_pending_nil (hp : s.pending = []) : fullTrace s = [] := by
  simp [fullTrace, hp, trace]

theorem endState_of_pending_nil (hp : s.pending = []) : endState s = s := by
  simp [endState, hp, after]

theorem fullTrace_of_step (hp : s.pending = p :: rest) (hs : step s = .next t) (ht : t.pending = rest) :
    fullTrace s = (t.ports, t.rsp) :: fullTrace t := by
  rw [fullTrace, hp, List.length_cons, trace_succ_of_step _ hs, fullTrace, ht]

theorem endState_of_step (hp : s.pending = p :: rest) (hs : step s = .next t) (ht : t.pending = rest) :
    endState s = endState t := by
  rw [endState, hp, List.length_cons, after_succ_of_step _ hs, endState, ht]

/-- A run and the run in which only the unit's moves are left, from states that agree on the unit's registers, answer the
unit's moves alike and leave the unit's registers alike: the first run's other steps keep the agreement, and the unit's
steps are taken by both. -/
theorem OwnRegisters.run_filter (own : OwnRegisters owns regs) (moves : List Ports) (s s' : State)
    (hp : s.pending = moves) (hp' : s'.pending = moves.filter (actsOn owns)) (hregs : regs s' = regs s) :
    (fullTrace s).filter (fun pr => actsOn owns pr.1) = fullTrace s' ∧ regs (endState s) = regs (endState s') := by
  induction moves generalizing s s' with
  | nil =>
    rw [fullTrace_of_pending_nil hp, fullTrace_of_pending_nil hp', endState_of_pending_nil hp,
      endState_of_pending_nil hp']
    exact ⟨rfl, hregs.symm⟩
  | cons p rest ih =>
    obtain ⟨t, hs, rfl, ht, -⟩ := step_next_of_pending_cons hp
    rw [fullTrace_of_step hp hs ht, endState_of_step hp hs ht]
    cases hact : actsOn owns t.ports with
    | false =>
      rw [List.filter_cons_of_neg (by simp [hact])] at hp' ⊢
      exact ih t s' ht hp' (hregs.trans (own.step_eq_of_other hp hs hact).symm)
    | true =>
      rw [List.filter_cons_of_pos (by simp [hact])] at hp' ⊢
      obtain ⟨t', hs', hports, ht', -⟩ := step_next_of_pending_cons hp'
      obtain ⟨hregs', hrsp⟩ := own.step_congr hp hp' hs hs' hact hregs
      obtain ⟨htrace, hend⟩ := ih t t' ht ht' hregs'
      rw [fullTrace_of_step hp' hs' ht', endState_of_step hp' hs' ht', htrace, hports, hrsp]
      exact ⟨rfl, hend⟩

/-! ### The statement -/

/-- Settles O48: each transducer's registers are its own, so by induction on the moves the others can be left out. -/
theorem interleavedStreamsAreIndependent : Obligations.InterleavedStreamsAreIndependent := by
  intro s moves
  have henc := encoder_ownRegisters.run_filter moves (s.facing moves) (s.facing (moves.filter (actsOn isEncoder)))
    rfl rfl rfl
  have hdec := decoder_ownRegisters.run_filter moves (s.facing moves) (s.facing (moves.filter (actsOn isDecoder)))
    rfl rfl rfl
  rw [actsOn_isEncoder] at henc
  rw [actsOn_isDecoder] at hdec
  obtain ⟨htraceEnc, hendEnc⟩ := henc
  obtain ⟨htraceDec, hendDec⟩ := hdec
  exact ⟨htraceEnc, hendEnc, htraceDec, hendDec⟩

end Sys2Proof.Machine
end

section
/-! SUPPORT. What a step did, read off the levels of the move it took (spec 70_reset_and_hazards.md R221, 30_encoding.md
R75). -/

namespace Sys2Proof.Machine

variable {i : Instr} {e : Illegal} {s t : State} {p : Ports} {rest : List Ports}

theorem eq_assertRst_of_step (hp : s.pending = p :: rest) (hr : p.rst = true) (hs : step s = .next t) :
    t = assertRst { s with ports := p, pending := rest } := by
  rcases step_effect hp hs with ⟨-, ht⟩ | ⟨hr', -⟩ | ⟨hr', -⟩
  · exact ht
  all_goals simp [hr] at hr'

theorem effect_of_step (hp : s.pending = p :: rest) (hr : p.rst = false) (hd : decode p.cmd = .ok i)
    (hs : step s = .next t) : Effect i { s with ports := p, pending := rest } t :=
  effect_of_exec ((stepRunsDecodedCommand s p rest i hp hr hd).symm.trans hs)

theorem step_of_illegal (hp : s.pending = p :: rest) (hr : p.rst = false) (hd : decode p.cmd = .error e) :
    step s = .next (illegalCommand { s with ports := p, pending := rest }) := by
  simp [step_of_pending_cons hp, runPorts, hr, hd]

theorem eq_illegalCommand_of_step (hp : s.pending = p :: rest) (hr : p.rst = false)
    (hd : decode p.cmd = .error e) (hs : step s = .next t) :
    t = illegalCommand { s with ports := p, pending := rest } := by
  simpa [step_of_illegal hp hr hd] using hs.symm

end Sys2Proof.Machine
end

section
/-! SUPPORT. What a command reads of `len_in` (spec 30_encoding.md R76): a run depends on it at the size commands alone. -/

namespace Sys2Proof.Machine

open Sys2Proof.Safety

variable {i : Instr} {s s' t t' : State} {p q : Ports} {rest rest' : List Ports}

/-! ### Two steps that may differ in `len_in` -/

/-- All that a command reads beside its operands: the registers of both transducers and the parameters. -/
abbrev SameCore (s s' : State) : Prop := s'.enc = s.enc ∧ s'.dec = s.dec ∧ s'.config = s.config

/-- The moves of two hosts that drive the same `rst` and `cmd`, and the same `len_in` at a size command. -/
abbrev AgreeAtSize (p q : Ports) : Prop :=
  q.rst = p.rst ∧ q.cmd = p.cmd ∧
    (p.rst = false → (decode p.cmd = .ok .sizeDecMax ∨ decode p.cmd = .ok .sizeEnc) → q.lenIn = p.lenIn)

theorem isSize_iff : isSize i = true ↔ i = .sizeDecMax ∨ i = .sizeEnc := by
  cases i <;> simp [isSize]

/-- A command answers alike in two states with the same core that agree on `len_in` if it is a size command: each unit's
commands read that unit's registers, and the ROM's read none. -/
theorem Effect.rsp_congr (h : Effect i s t) (h' : Effect i s' t') (hcore : SameCore s s')
    (hlen : isSize i = true → s'.ports.lenIn = s.ports.lenIn) : t'.rsp = t.rsp := by
  obtain ⟨henc, hdec, hconfig⟩ := hcore
  cases hi : isEncoder i
  · cases hd : isDecoder i
    · cases hz : isSize i
      · exact h.rom_congr h' hi hd hz
      · exact h.size_congr h' hz (hlen hz) hconfig
    · exact (h.decoder_congr h' hd hdec).2
  · exact (h.encoder_congr h' hi henc).2

/-- A command leaves the same core in two states with the same core, whatever `len_in` is there. -/
theorem Effect.sameCore (h : Effect i s t) (h' : Effect i s' t') (hcore : SameCore s s') : SameCore t t' := by
  obtain ⟨henc, hdec, hconfig⟩ := hcore
  obtain ⟨-, -, hkept⟩ := h.sameSurroundings
  obtain ⟨-, -, hkept'⟩ := h'.sameSurroundings
  refine ⟨?_, ?_, hkept'.trans (hconfig.trans hkept.symm)⟩
  · cases hi : isEncoder i
    · exact (h'.enc_eq_of_not_encoder hi).trans (henc.trans (h.enc_eq_of_not_encoder hi).symm)
    · exact (h.encoder_congr h' hi henc).1
  · cases hi : isDecoder i
    · exact (h'.dec_eq_of_not_decoder hi).trans (hdec.trans (h.dec_eq_of_not_decoder hi).symm)
    · exact (h.decoder_congr h' hi hdec).1

/-- Two steps on moves that agree do the same with the same core, and answer alike. -/
theorem step_congr_of_agreeAtSize (hp : s.pending = p :: rest) (hq : s'.pending = q :: rest')
    (hs : step s = .next t) (hs' : step s' = .next t') (hpq : AgreeAtSize p q) (hcore : SameCore s s') :
    SameCore t t' ∧ t'.rsp = t.rsp := by
  obtain ⟨hrst, hcmd, hlen⟩ := hpq
  cases hr : p.rst
  · cases hd : decode p.cmd with
    | ok i =>
      have heff := effect_of_step hp hr hd hs
      have heff' := effect_of_step hq (hrst.trans hr) (hcmd ▸ hd) hs'
      refine ⟨heff.sameCore heff' hcore, heff.rsp_congr heff' hcore fun hz => hlen hr ?_⟩
      simpa [hd] using isSize_iff.mp hz
    | error e =>
      rw [eq_illegalCommand_of_step hp hr hd hs, eq_illegalCommand_of_step hq (hrst.trans hr) (hcmd ▸ hd) hs']
      exact ⟨hcore, rfl⟩
  · rw [eq_assertRst_of_step hp hr hs, eq_assertRst_of_step hq (hrst.trans hr) hs']
    obtain ⟨-, -, hconfig⟩ := hcore
    exact ⟨⟨rfl, rfl, hconfig⟩, rfl⟩

/-! ### Runs -/

theorem responses_of_pending_nil (hp : s.pending = []) : responses s = [] := by
  rw [responses, fullTrace_of_pending_nil hp, List.map_nil]

theorem responses_of_step (hp : s.pending = p :: rest) (hs : step s = .next t) (ht : t.pending = rest) :
    responses s = t.rsp :: responses t := by
  rw [responses, fullTrace_of_step hp hs ht, List.map_cons, responses]

/-- Two runs over moves that agree answer alike and leave the same core, by induction on the moves. -/
theorem run_congr_of_agreeAtSize {ps qs : List Ports} (h : List.Forall₂ AgreeAtSize ps qs) (hp : s.pending = ps)
    (hq : s'.pending = qs) (hcore : SameCore s s') :
    responses s' = responses s ∧ SameCore (endState s) (endState s') := by
  induction h generalizing s s' with
  | nil =>
    rw [responses_of_pending_nil hp, responses_of_pending_nil hq, endState_of_pending_nil hp,
      endState_of_pending_nil hq]
    exact ⟨rfl, hcore⟩
  | cons hpq _ ih =>
    obtain ⟨t, hs, -, ht, -⟩ := step_next_of_pending_cons hp
    obtain ⟨t', hs', -, ht', -⟩ := step_next_of_pending_cons hq
    obtain ⟨hcore', hrsp⟩ := step_congr_of_agreeAtSize hp hq hs hs' hpq hcore
    obtain ⟨hresponses, hend⟩ := ih ht ht' hcore'
    rw [responses_of_step hp hs ht, responses_of_step hq hs' ht', endState_of_step hp hs ht,
      endState_of_step hq hs' ht', hresponses, hrsp]
    exact ⟨rfl, hend⟩

/-! ### The statement -/

/-- Settles O15: the two runs start from one core, and a step keeps the cores the same. -/
theorem lenInReadOnlyBySizeCommands : Obligations.LenInReadOnlyBySizeCommands := by
  intro s ps qs h
  obtain ⟨hresponses, henc, hdec, -⟩ :=
    run_congr_of_agreeAtSize (s := s.facing ps) (s' := s.facing qs) h rfl rfl ⟨rfl, rfl, rfl⟩
  exact ⟨hresponses, henc, hdec⟩

end Sys2Proof.Machine
end

section
/-! SUPPORT. The decoder and the opcode table by a word's three fields (spec 30_encoding.md R71 to R75): a word decodes to
the command whose fields it has, and a word has a command exactly when its fields are legal. -/

namespace Sys2Proof

variable {op : BitVec 4} {data : Byte} {w w' : Word} {i j : Instr} {f : Fields}

/-! ### The fields of a word -/

theorem opField_toNat (w : Word) : (opField w).toNat = w.toNat / 4096 := by
  have h := w.isLt
  rw [opField, BitVec.extractLsb'_toNat, Nat.shiftRight_eq_div_pow]
  omega

theorem rsvField_toNat (w : Word) : (rsvField w).toNat = w.toNat / 256 % 16 := by
  rw [rsvField, BitVec.extractLsb'_toNat, Nat.shiftRight_eq_div_pow]

theorem dataField_toNat (w : Word) : (dataField w).toNat = w.toNat % 256 := by
  rw [dataField, BitVec.extractLsb'_toNat, Nat.shiftRight_zero]

/-- The three fields are all of a word (R71). -/
theorem fieldsOf_inj : fieldsOf w = fieldsOf w' ↔ w = w' := by
  refine ⟨fun h => ?_, congrArg fieldsOf⟩
  simp only [fieldsOf, Fields.mk.injEq, ← BitVec.toNat_inj, opField_toNat, rsvField_toNat, dataField_toNat] at h
  obtain ⟨hop, hrsv, hdata⟩ := h
  exact BitVec.eq_of_toNat_eq (by omega)

/-- Masking a word masks each of its fields. -/
theorem fieldsOf_and (w m : Word) :
    fieldsOf (w &&& m) = ⟨opField w &&& opField m, rsvField w &&& rsvField m, dataField w &&& dataField m⟩ := by
  simp only [fieldsOf, opField, rsvField, dataField, BitVec.extractLsb'_and]

/-! ### The fields of a command -/

theorem Instr.toFields_rsv (i : Instr) : i.toFields.rsv = 0 := by
  cases i <;> rfl

/-- R75's conditions on the fields, as numbers. -/
theorem Fields.legal_iff (f : Fields) :
    f.legal = true ↔
      ¬ (f.op.toNat ∈ [0x0, 0x3, 0x7, 0xB, 0xE, 0xF] ∨ f.rsv.toNat ≠ 0 ∨
        (f.op.toNat ∈ [0x4, 0x6, 0x8, 0xA, 0xC, 0xD] ∧ f.data.toNat ≠ 0)) := by
  obtain ⟨op, rsv, data⟩ := f
  have hassigned : (Fields.mk op rsv data).opAssigned = true ↔ op.toNat ∉ [0x0, 0x3, 0x7, 0xB, 0xE, 0xF] := by
    revert op; simp only [Fields.opAssigned]; decide
  have htakes : op.toNat ∉ [0x0, 0x3, 0x7, 0xB, 0xE, 0xF] →
      ((Fields.mk op rsv data).takesData = true ↔ op.toNat ∉ [0x4, 0x6, 0x8, 0xA, 0xC, 0xD]) := by
    clear hassigned
    revert op; simp only [Fields.takesData]; decide
  have hrsv : rsv = 0 ↔ rsv.toNat = 0 := BitVec.toNat_inj.symm
  have hdata : data = 0 ↔ data.toNat = 0 := BitVec.toNat_inj.symm
  simp only [Fields.legal, Fields.rsvClear, Fields.dataAllowed, Bool.and_eq_true, Bool.or_eq_true, beq_iff_eq,
    hassigned, hrsv, hdata]
  tauto

/-- Legal fields are those of a command: the opcode map assigns each opcode that is left, with any data where the command
takes an operand and with 0 where it takes none (R72). -/
theorem exists_toFields_eq_iff : (∃ i : Instr, f = i.toFields) ↔ f.legal = true := by
  constructor
  · rintro ⟨i, rfl⟩
    cases i <;> rfl
  · obtain ⟨op, rsv, data⟩ := f
    intro h
    simp only [Fields.legal, Fields.rsvClear, Bool.and_eq_true, beq_iff_eq] at h
    obtain ⟨⟨hop, rfl⟩, hdata⟩ := h
    have hassigned : ∀ op : BitVec 4, (Fields.mk op 0 data).opAssigned = true →
        op ∈ [0x1#4, 0x2#4, 0x4#4, 0x5#4, 0x6#4, 0x8#4, 0x9#4, 0xA#4, 0xC#4, 0xD#4] := by
      simp only [Fields.opAssigned]; decide
    have hop := hassigned op hop
    simp only [List.mem_cons, List.not_mem_nil, or_false] at hop
    have hzero : Fields.takesData ⟨op, 0, data⟩ = false → data = 0 := by
      intro ht
      simpa only [Fields.dataAllowed, ht, Bool.false_or, beq_iff_eq] using hdata
    rcases hop with rfl | rfl | rfl | rfl | rfl | rfl | rfl | rfl | rfl | rfl
    · exact ⟨.romValueOf data, rfl⟩
    · exact ⟨.romCharOf data, rfl⟩
    · exact ⟨.encReset, by rw [hzero rfl]; rfl⟩
    · exact ⟨.encConsume data, rfl⟩
    · exact ⟨.encFinalize, by rw [hzero rfl]; rfl⟩
    · exact ⟨.decReset, by rw [hzero rfl]; rfl⟩
    · exact ⟨.decConsume data, rfl⟩
    · exact ⟨.decFinalize, by rw [hzero rfl]; rfl⟩
    · exact ⟨.sizeDecMax, by rw [hzero rfl]; rfl⟩
    · exact ⟨.sizeEnc, by rw [hzero rfl]; rfl⟩

/-! ### The decoder -/

theorem withoutData_eq_ok_iff : withoutData data i = .ok j ↔ data = 0 ∧ i = j := by
  by_cases h : data = 0#8 <;> simp [withoutData, h]

theorem decodeOp_eq_ok_iff : decodeOp op data = .ok i ↔ (⟨op, 0, data⟩ : Fields) = i.toFields := by
  constructor
  · intro h
    obtain ⟨⟨n, hn⟩⟩ := op
    unfold decodeOp at h
    dsimp only [BitVec.toNat_ofFin] at h
    split at h
    -- the opcodes with an operand, then no opcode of the map, then the opcodes without an operand
    case h_1 | h_2 | h_4 | h_7 =>
      cases h
      rfl
    case h_11 => cases h
    all_goals
      obtain ⟨rfl, rfl⟩ := withoutData_eq_ok_iff.mp h
      rfl
  · intro h
    cases i <;>
    · obtain ⟨rfl, -, rfl⟩ := Fields.mk.inj h
      rfl

/-- A word decodes to the command whose fields it has. -/
theorem decode_eq_ok_iff : decode w = .ok i ↔ fieldsOf w = i.toFields := by
  unfold decode fieldsOf
  split
  next hrsv => rw [decodeOp_eq_ok_iff, hrsv]
  next hrsv =>
    refine ⟨fun h => (nomatch h), fun h => absurd ?_ hrsv⟩
    exact (congrArg Fields.rsv h).trans i.toFields_rsv

theorem exists_decode_ok_iff : (∃ i, decode w = .ok i) ↔ (fieldsOf w).legal = true := by
  simp only [decode_eq_ok_iff, exists_toFields_eq_iff]

theorem exists_decode_error_iff : (∃ e, decode w = .error e) ↔ ¬ (fieldsOf w).legal = true := by
  rw [← exists_decode_ok_iff]
  cases decode w <;> simp

/-- R75's conditions on the word. -/
theorem legal_fieldsOf_iff (w : Word) :
    (fieldsOf w).legal = true ↔
      ¬ (w.toNat / 4096 ∈ [0x0, 0x3, 0x7, 0xB, 0xE, 0xF] ∨ w.toNat / 256 % 16 ≠ 0 ∨
        (w.toNat / 4096 ∈ [0x4, 0x6, 0x8, 0xA, 0xC, 0xD] ∧ w.toNat % 256 ≠ 0)) := by
  rw [Fields.legal_iff]
  simp only [fieldsOf, opField_toNat, rsvField_toNat, dataField_toNat]

/-! ### The opcode table -/

theorem opcodeRow_eq_of_op_eq (h : i.toFields.op = j.toFields.op) : opcodeRow i = opcodeRow j := by
  revert h
  cases i <;> cases j <;> simp [opcodeRow, Instr.toFields]

theorem fieldsOf_pattern (i : Instr) : fieldsOf (opcodeRow i).pattern = ⟨i.toFields.op, 0, 0⟩ := by
  cases i <;> simp [opcodeRow, Instr.toFields, fieldsOf, opField, rsvField, dataField]

theorem fieldsOf_mask (i : Instr) :
    fieldsOf (opcodeRow i).mask = ⟨0xF, 0xF, if i.toFields.takesData then 0 else 0xFF⟩ := by
  cases i <;> simp [opcodeRow, Instr.toFields, Fields.takesData, fieldsOf, opField, rsvField, dataField]

/-- A row's match and mask fix the opcode, keep the reserved field zero, and leave the data free where the command takes
an operand. -/
theorem and_mask_eq_pattern_iff :
    w &&& (opcodeRow i).mask = (opcodeRow i).pattern ↔
      opField w = i.toFields.op ∧ rsvField w = 0 ∧ (i.toFields.takesData = true ∨ dataField w = 0) := by
  obtain ⟨hop, hrsv, hdata⟩ := Fields.mk.inj (fieldsOf_mask i)
  have hop_ones : opField w &&& 0xF#4 = opField w := BitVec.and_allOnes
  have hrsv_ones : rsvField w &&& 0xF#4 = rsvField w := BitVec.and_allOnes
  have hdata_ones : dataField w &&& 0xFF#8 = dataField w := BitVec.and_allOnes
  rw [← fieldsOf_inj, fieldsOf_and, fieldsOf_pattern, hop, hrsv, hdata]
  cases i.toFields.takesData <;> simp [hop_ones, hrsv_ones, hdata_ones]

/-- A row covers exactly the words of its commands: what the match and the mask ask is what makes the fields legal under
the row's opcode. -/
theorem and_mask_eq_pattern_iff_decode :
    w &&& (opcodeRow i).mask = (opcodeRow i).pattern ↔ ∃ j, decode w = .ok j ∧ opcodeRow j = opcodeRow i := by
  constructor
  · intro h
    obtain ⟨hop, hrsv, hdata⟩ := and_mask_eq_pattern_iff.mp h
    have hi : i.toFields.legal = true := exists_toFields_eq_iff.mp ⟨i, rfl⟩
    have hlegal : (fieldsOf w).legal = true := by
      simp only [Fields.legal, Fields.opAssigned, Fields.rsvClear, Fields.dataAllowed, Fields.takesData, fieldsOf, hop,
        hrsv, Bool.and_eq_true, Bool.or_eq_true, beq_iff_eq] at hi hdata ⊢
      obtain ⟨⟨hassigned, -⟩, -⟩ := hi
      exact ⟨⟨hassigned, trivial⟩, hdata⟩
    obtain ⟨j, hj⟩ := exists_decode_ok_iff.mpr hlegal
    exact ⟨j, hj, opcodeRow_eq_of_op_eq ((congrArg Fields.op (decode_eq_ok_iff.mp hj)).symm.trans hop)⟩
  · rintro ⟨j, hj, hrow⟩
    obtain ⟨hop, hrsv, hdata⟩ := Fields.mk.inj (decode_eq_ok_iff.mp hj)
    rw [← hrow, and_mask_eq_pattern_iff]
    have hlegal : j.toFields.legal = true := exists_toFields_eq_iff.mp ⟨j, rfl⟩
    simp only [Fields.legal, Fields.dataAllowed, Bool.and_eq_true, Bool.or_eq_true, beq_iff_eq] at hlegal
    obtain ⟨-, hallowed⟩ := hlegal
    exact ⟨hop, hrsv.trans j.toFields_rsv, hdata ▸ hallowed⟩

theorem exists_opcodeRow_of_mem {r : OpcodeRow} (h : r ∈ opcodeTable) : ∃ i, opcodeRow i = r := by
  obtain ⟨i, -, hi⟩ := List.mem_map.mp h
  exact ⟨i, hi⟩

theorem opcodeTable_nodup : opcodeTable.Nodup := by
  decide

end Sys2Proof

namespace Sys2Proof.Machine

/-- Settles O2: a word decodes exactly when its fields are legal, and a step on a word that does not decode is the answer
to an illegal command. -/
theorem illegalWordsChangeNothing : Obligations.IllegalWordsChangeNothing := by
  intro w op rsv data illegal
  have herror : (∃ e, decode w = .error e) ↔ illegal := by
    rw [exists_decode_error_iff, legal_fieldsOf_iff, not_not]
  refine ⟨herror, fun h => ?_, fun h s lenIn rest hp => ?_⟩
  · exact exists_decode_ok_iff.mpr ((legal_fieldsOf_iff w).mpr h)
  · obtain ⟨e, he⟩ := herror.mpr h
    exact step_of_illegal hp rfl he

/-- Settles O3: each row's match and mask say what makes a word's fields legal under its opcode, and two rows that cover
one word are the row of the one command it decodes to. -/
theorem opcodeTableMatchesDecoder : Obligations.OpcodeTableMatchesDecoder := by
  have hcovers : ∀ (w : Word), ∀ r ∈ opcodeTable, w &&& r.mask = r.pattern ↔ ∃ i, decode w = .ok i ∧ opcodeRow i = r := by
    intro w r hr
    obtain ⟨i, rfl⟩ := exists_opcodeRow_of_mem hr
    exact and_mask_eq_pattern_iff_decode
  refine ⟨rfl, hcovers, opcodeTable_nodup.imp_of_mem fun {r r'} hr hr' hne w h => hne ?_⟩
  obtain ⟨hw, hw'⟩ := h
  obtain ⟨i, hi, rfl⟩ := (hcovers w r hr).mp hw
  obtain ⟨i', hi', rfl⟩ := (hcovers w r' hr').mp hw'
  obtain rfl : i = i' := by simpa [hi] using hi'
  rfl

end Sys2Proof.Machine
end

section
/-! SUPPORT. What the fields of a response can be (spec 30_encoding.md R78 to R81): why a command fails, and what the
response of one that does not fail carries. -/

namespace Sys2Proof.Machine

variable {i : Instr} {s t : State} {p : Ports} {rest : List Ports}

/-! ### The group values, as the rules write them (R141, R143) -/

theorem tripleValue_eq (v0 v1 v : Value) : tripleValue v0 v1 v = v0.toNat + v1.toNat * 45 + v.toNat * 2025 := by
  rw [tripleValue, Nat.mul_assoc v.toNat]

theorem pairValue_eq (v0 v1 : Value) : pairValue v0 v1 = v0.toNat + v1.toNat * 45 := rfl

/-! ### Why a command fails -/

/-- The commands that a failed decoder turns away (R145). -/
def feedsDecoder : Instr → Bool
  | .decConsume _ | .decFinalize => true
  | .romValueOf _ | .romCharOf _ | .encReset | .encConsume _ | .encFinalize | .decReset | .sizeDecMax | .sizeEnc => false

theorem feedsDecoder_iff : feedsDecoder i = true ↔ (∃ c, i = .decConsume c) ∨ i = .decFinalize := by
  cases i <;> simp [feedsDecoder]

/-- `Failure i d r`: command `i`, on the decoder registers `d`, answers the failure `r`, for the reason the constructor
names (R78, R79). -/
inductive Failure : Instr → DecRegs → Response → Prop
  | notInAlphabet {c : Byte} {d : DecRegs} (h : romValue c = none) :
      Failure (.decConsume c) d (.raise .malformedEncoding 1)
  | tripleTooLarge {c : Byte} {v : Value} {d : DecRegs} (h : romValue c = some v) (hc : d.count = .two)
      (ht : 65535 < tripleValue d.v0 d.v1 v) : Failure (.decConsume c) d (.raise .malformedEncoding 2)
  | pairTooLarge {d : DecRegs} (hc : d.count = .two) (hp : 255 < pairValue d.v0 d.v1) :
      Failure .decFinalize d (.raise .malformedEncoding 3)
  | truncated {d : DecRegs} : Failure .decFinalize d (.raise .truncatedInput 0)
  | failedBefore {i : Instr} {d : DecRegs} (hi : feedsDecoder i = true) (hf : d.fail = true) :
      Failure i d (.failedBefore d)
  | sizeTooLarge {d : DecRegs} : Failure .sizeEnc d (.raise .sizeExceedsMaximum 0)

/-- A command answers OK or fails for one of these reasons. -/
theorem Effect.ok_or_failure (h : Effect i s t) : t.rsp.status = .ok ∨ Failure i s.dec t.rsp := by
  cases h
  case notInAlphabet h hf => exact .inr (.notInAlphabet h)
  case tripleTooLarge h hf hc ht => exact .inr (.tripleTooLarge h hc ht)
  case pairTooLarge hf hc hp => exact .inr (.pairTooLarge hc hp)
  case truncated => exact .inr .truncated
  case consumeFailedBefore hf | finalizeFailedBefore hf => exact .inr (.failedBefore rfl hf)
  case encSizeTooLarge => exact .inr .sizeTooLarge
  all_goals exact .inl rfl

/-- A step answers OK, turns an illegal word away, or takes a command that fails. -/
theorem step_ok_or_failure (hp : s.pending = p :: rest) (hs : step s = .next t) :
    t.rsp.status = .ok ∨ p.rst = false ∧
      ((t.rsp.status = .illegalCommand ∧ ∃ e, decode p.cmd = .error e) ∨
        ∃ i, decode p.cmd = .ok i ∧ Failure i s.dec t.rsp) := by
  rcases step_effect hp hs with ⟨-, rfl⟩ | ⟨hr, i, hd, heff⟩ | ⟨hr, e, hd, rfl⟩
  · exact .inl rfl
  · exact heff.ok_or_failure.imp_right fun hfail => ⟨hr, .inr ⟨i, hd, hfail⟩⟩
  · exact .inr ⟨hr, .inl ⟨rfl, e, hd⟩⟩

/-! ### The response word -/

theorem portRsp_status (s : State) : (portRsp s).extractLsb' 0 3 = s.rsp.status.code :=
  BitVec.extractLsb'_append_eq_right

theorem ok_word : Response.ok.word = 0 := by
  decide

theorem Status.code_ne_six (st : Status) : st.code ≠ 6 := by
  cases st <;> decide

theorem Status.code_ne_seven (st : Status) : st.code ≠ 7 := by
  cases st <;> decide

/-! ### What a response carries -/

/-- Lanes at index `n` and above hold 0 (R80). -/
def Response.LanesClear (r : Response) : Prop :=
  (r.n.toNat ≤ 0 → r.out0 = 0) ∧ (r.n.toNat ≤ 1 → r.out1 = 0) ∧ (r.n.toNat ≤ 2 → r.out2 = 0)

/-- The units a command emits are the lanes below `n`, and a command that emits none leaves every lane 0. -/
theorem Effect.lanesClear (h : Effect i s t) : t.rsp.LanesClear := by
  cases h
  case groupEncoded => simp [Response.LanesClear, emitByteGroup, emit_three]
  case trailingEncoded => simp [Response.LanesClear, emitTrailingByte, emit_two, Response.zero]
  case tripleDecoded => simp [Response.LanesClear, emitTriple, emit_two, Response.zero]
  case pairDecoded => simp [Response.LanesClear, emit_one, Response.zero]
  all_goals exact ⟨fun _ => rfl, fun _ => rfl, fun _ => rfl⟩

/-- The numbers of units a command can emit (R80). -/
def unitCounts : Instr → List (BitVec 2)
  | .encConsume _ => [0, 3]
  | .encFinalize | .decConsume _ => [0, 2]
  | .decFinalize => [0, 1]
  | .romValueOf _ | .romCharOf _ | .encReset | .decReset | .sizeDecMax | .sizeEnc => [0]

theorem Effect.n_mem_unitCounts (h : Effect i s t) : t.rsp.n ∈ unitCounts i := by
  cases h
  case groupEncoded | trailingEncoded | tripleDecoded | pairDecoded => exact .tail _ (.head _)
  all_goals exact .head _

theorem Effect.hit_eq_false_or (h : Effect i s t) : t.rsp.hit = false ∨ ∃ c, i = .romValueOf c ∨ i = .romCharOf c := by
  cases h
  case valueFound c _ _ => exact .inr ⟨c, .inl rfl⟩
  case charFound c _ _ => exact .inr ⟨c, .inr rfl⟩
  all_goals exact .inl rfl

theorem Effect.result_eq_zero_or (h : Effect i s t) :
    t.rsp.result = 0 ∨ (∃ c, i = .romValueOf c ∨ i = .romCharOf c) ∨ Safety.isSize i = true ∨
      t.rsp.status = .instanceFailed := by
  cases h
  case valueFound c _ _ => exact .inr (.inl ⟨c, .inl rfl⟩)
  case charFound c _ _ => exact .inr (.inl ⟨c, .inr rfl⟩)
  case decSized | encSized => exact .inr (.inr (.inl rfl))
  case consumeFailedBefore | finalizeFailedBefore => exact .inr (.inr (.inr rfl))
  all_goals exact .inl rfl

/-- A command that emits sets no other field (R81). -/
theorem Effect.n_eq_zero_or (h : Effect i s t) :
    t.rsp.n = 0 ∨ (t.rsp.status = .ok ∧ t.rsp.detail = 0 ∧ t.rsp.hit = false ∧ t.rsp.result = 0) := by
  cases h
  case groupEncoded | trailingEncoded | tripleDecoded | pairDecoded => exact .inr ⟨rfl, rfl, rfl, rfl⟩
  all_goals exact .inl rfl

/-- Only a failure has a detail, and only one of DEC_CONSUME and DEC_FINALIZE (R79). -/
theorem Effect.detail_eq_zero_or (h : Effect i s t) :
    t.rsp.detail = 0 ∨ (feedsDecoder i = true ∧ (t.rsp.status = .malformedEncoding ∨ t.rsp.status = .instanceFailed)) := by
  cases h
  case notInAlphabet | tripleTooLarge | pairTooLarge => exact .inr ⟨rfl, .inl rfl⟩
  case consumeFailedBefore | finalizeFailedBefore => exact .inr ⟨rfl, .inr rfl⟩
  all_goals exact .inl rfl

/-! ### The statements -/

/-- Settles O11: a step that does not answer OK turned an illegal word away or took a command that fails, and each failure
names its command. -/
theorem statusRaisedByItsCommands : Obligations.StatusRaisedByItsCommands := by
  refine ⟨rfl, fun s t p rest hp hs => ?_⟩
  rw [portRsp_status]
  refine ⟨t.rsp.status.code_ne_six, t.rsp.status.code_ne_seven, ?_⟩
  rcases step_ok_or_failure hp hs with hok | ⟨hr, ⟨hillegal, he⟩ | ⟨i, hd, hfail⟩⟩
  · simp [hok]
  · simp [hillegal, hr, he]
  · generalize t.rsp = r at hfail
    cases hfail
    case notInAlphabet | tripleTooLarge | pairTooLarge | truncated | sizeTooLarge => simp [hr, hd]
    case failedBefore hi hf => simpa [hr, hd, hf] using feedsDecoder_iff.mp hi

/-- Settles O12: each way to fail states its cause and its detail, and no other status has a detail. -/
theorem detailNamesTheCause : Obligations.DetailNamesTheCause := by
  intro i s t hexec
  have heff := effect_of_exec hexec
  rcases heff.ok_or_failure with hok | hfail
  · have hdetail : t.rsp.detail = 0 := heff.detail_eq_zero_or.resolve_right (by simp [hok])
    simp [hok, hdetail]
  · generalize t.rsp = r at hfail
    cases hfail
    case notInAlphabet h => simp [h]
    case tripleTooLarge h hc ht => simp [h, hc, ← tripleValue_eq, ht]
    case pairTooLarge hc hp => simp [hc, ← pairValue_eq, hp]
    case truncated | failedBefore | sizeTooLarge => simp

/-- Settles O13: the lanes and the number of units are read off the ways a command can act. -/
theorem outputLanesInOrder : Obligations.OutputLanesInOrder := by
  refine ⟨fun a b c => ⟨emit_one a, emit_two a b, emit_three a b c⟩, fun i s t h => ?_⟩
  have heff := effect_of_exec h
  obtain ⟨hlane0, hlane1, hlane2⟩ := heff.lanesClear
  refine ⟨hlane0, hlane1, hlane2, ?_⟩
  have hn := heff.n_mem_unitCounts
  cases i <;> simpa [unitCounts] using hn

/-- Settles O14: each field is 0 or set by a way of acting whose rule sets it. -/
theorem unsetResponseFieldsAreZero : Obligations.UnsetResponseFieldsAreZero := by
  refine ⟨fun i s t h => ?_, fun s => ⟨_, rfl, ok_word⟩⟩
  have heff := effect_of_exec h
  refine ⟨fun hhit => ?_, heff.result_eq_zero_or.resolve_left, fun hdetail => ?_, fun (hn : t.rsp.n ≠ 0#2) => ?_,
    heff.lanesClear⟩
  · exact heff.hit_eq_false_or.resolve_left (by simp [hhit])
  · obtain ⟨hi, hst⟩ := heff.detail_eq_zero_or.resolve_left hdetail
    exact ⟨feedsDecoder_iff.mp hi, by rcases hst with hst | hst <;> simp [hst]⟩
  · refine ⟨?_, heff.n_eq_zero_or.resolve_left hn⟩
    have hcount := heff.n_mem_unitCounts
    cases i <;> simp [unitCounts, hn] at hcount ⊢

end Sys2Proof.Machine
end

section
/-! SUPPORT. The alphabet ROM (spec 40_alphabet_rom.md R100 to R107): `CHAR_ROM` by its closed form, `VALUE_ROM` as its
inverse, and the two look-up commands. -/

namespace Sys2Proof.Machine

variable {c : Byte} {v : Value}

/-! ### CHAR_ROM -/

theorem charRom_getElem? (v : Fin 45) : charRom[v.val]? = some (romChar v) :=
  List.getElem?_eq_getElem (by rw [charRom_length]; exact v.isLt)

theorem romChar_toNat_of_digit : ∀ v : Fin 45, v.val ≤ 9 → (romChar v).toNat = 0x30 + v.val := by decide

theorem romChar_toNat_of_letter :
    ∀ v : Fin 45, 10 ≤ v.val → v.val ≤ 35 → (romChar v).toNat = 0x41 + (v.val - 10) := by decide

theorem romChar_toNat_of_symbol : ∀ v : Fin 45, 36 ≤ v.val →
    [0x20, 0x24, 0x25, 0x2A, 0x2B, 0x2D, 0x2E, 0x2F, 0x3A][v.val - 36]? = some (romChar v).toNat := by decide

/-- Every alphabet code lies between the space and 'Z', and '=' is none. -/
theorem romChar_toNat_bounds :
    ∀ v : Fin 45, 0x20 ≤ (romChar v).toNat ∧ (romChar v).toNat ≤ 0x5A ∧ (romChar v).toNat ≠ 0x3D := by decide

/-! ### VALUE_ROM -/

theorem valueRom_romChar : ∀ v : Fin 45, valueRom (romChar v) = romHit v.val := by decide

/-- A code that is no entry of `CHAR_ROM` lies in no range of `VALUE_ROM`'s closed form that hits (R102). -/
theorem valueRom_eq_zero (h : ∀ v : Fin 45, romChar v ≠ c) : valueRom c = 0 := by
  have hcode : ∀ v : Fin 45, c.toNat ≠ (romChar v).toNat := fun v heq => h v (BitVec.eq_of_toNat_eq heq.symm)
  have hdigit : ¬ (0x30 ≤ c.toNat ∧ c.toNat ≤ 0x39) := by
    rintro ⟨hlow, hhigh⟩
    refine hcode ⟨c.toNat - 0x30, by omega⟩ (Eq.trans ?_ (romChar_toNat_of_digit _ ?_).symm) <;> dsimp only <;> omega
  have hletter : ¬ (0x41 ≤ c.toNat ∧ c.toNat ≤ 0x5A) := by
    rintro ⟨hlow, hhigh⟩
    refine hcode ⟨c.toNat - 0x41 + 10, by omega⟩ (Eq.trans ?_ (romChar_toNat_of_letter _ ?_ ?_).symm) <;>
      dsimp only <;> omega
  have hsymbol : c.toNat ≠ 0x20 ∧ c.toNat ≠ 0x24 ∧ c.toNat ≠ 0x25 ∧ c.toNat ≠ 0x2A ∧ c.toNat ≠ 0x2B ∧ c.toNat ≠ 0x2D ∧
      c.toNat ≠ 0x2E ∧ c.toNat ≠ 0x2F ∧ c.toNat ≠ 0x3A :=
    ⟨hcode 36, hcode 37, hcode 38, hcode 39, hcode 40, hcode 41, hcode 42, hcode 43, hcode 44⟩
  simp only [valueRom, hdigit, hletter, hsymbol, if_false]

/-! ### The look-ups -/

@[simp] theorem romValue_romChar (v : Fin 45) : romValue (romChar v) = some (BitVec.ofNat 6 v.val) := by
  rw [romValue, valueRom_romChar, romHit, BitVec.extractLsb'_append_eq_left, BitVec.extractLsb'_append_eq_right,
    if_pos rfl]

theorem romValue_eq_none_iff : romValue c = none ↔ ∀ v : Fin 45, romChar v ≠ c := by
  constructor
  · rintro h v rfl
    simp at h
  · intro h
    simp [romValue, valueRom_eq_zero h]

theorem exists_romChar_of_romValue (h : romValue c = some v) : ∃ hv : v.toNat < 45, romChar ⟨v.toNat, hv⟩ = c := by
  have hne : ¬ ∀ k : Fin 45, romChar k ≠ c := by rw [← romValue_eq_none_iff, h]; simp
  push Not at hne
  obtain ⟨k, rfl⟩ := hne
  have hk := k.isLt
  obtain rfl : BitVec.ofNat 6 k.val = v := by simpa using h
  have htoNat : (BitVec.ofNat 6 k.val).toNat = k.val := by rw [BitVec.toNat_ofNat]; omega
  exact ⟨by omega, congrArg romChar (Fin.ext htoNat)⟩

theorem romChar_injective : Function.Injective romChar := by
  intro v w h
  have hcode := romValue_romChar v
  rw [h, romValue_romChar w, Option.some_inj, ← BitVec.toNat_inj, BitVec.toNat_ofNat, BitVec.toNat_ofNat] at hcode
  omega

/-- The codes with a value are the 45 of `CHAR_ROM`, each once. -/
theorem codes_with_value_perm :
    ((List.range 256).filter (fun n => !decide (romValue (BitVec.ofNat 8 n) = none))).Perm
      ((List.finRange 45).map (fun v => (romChar v).toNat)) := by
  have hinj : Function.Injective (fun v : Fin 45 => (romChar v).toNat) :=
    fun _ _ h => romChar_injective (BitVec.eq_of_toNat_eq h)
  refine (List.perm_ext_iff_of_nodup (List.nodup_range.filter _) ((List.nodup_finRange 45).map hinj)).mpr fun n => ?_
  simp only [List.mem_filter, List.mem_range, List.mem_map, List.mem_finRange, true_and, Bool.not_eq_true',
    decide_eq_false_iff_not, romValue_eq_none_iff, not_forall, not_not]
  constructor
  · rintro ⟨hn, v, hv⟩
    exact ⟨v, by rw [hv, BitVec.toNat_ofNat, Nat.mod_eq_of_lt hn]⟩
  · rintro ⟨v, rfl⟩
    exact ⟨(romChar v).isLt, v, by simp⟩

theorem count_romValue_eq_none :
    ((List.range 256).filter (fun n => romValue (BitVec.ofNat 8 n) = none)).length = 211 := by
  have hsplit := List.length_eq_length_filter_add (l := List.range 256)
    (fun n => decide (romValue (BitVec.ofNat 8 n) = none))
  rw [codes_with_value_perm.length_eq, List.length_map, List.length_finRange, List.length_range] at hsplit
  omega

/-- A code outside the alphabet's bounds, or '=', misses. -/
theorem romValue_eq_none_of_bounds (h : c.toNat < 0x20 ∨ 0x5A < c.toNat ∨ c.toNat = 0x3D) : romValue c = none := by
  rw [romValue_eq_none_iff]
  rintro v rfl
  have hbounds := romChar_toNat_bounds v
  omega

/-! ### The command words -/

/-- A command's word has the command's fields, so it decodes to the command. -/
theorem decode_encode_of_encodedFields {i : Instr} (h : Laws.EncodedFields.Statement i) : decode (encode i) = .ok i := by
  obtain ⟨hfields, -⟩ := h
  exact decode_eq_ok_iff.mpr hfields

theorem decode_encode_romValueOf (c : Byte) : decode (encode (.romValueOf c)) = .ok (.romValueOf c) :=
  decode_encode_of_encodedFields (Laws.EncodedFields.romValueOf c)

theorem decode_encode_romCharOf (v : Byte) : decode (encode (.romCharOf v)) = .ok (.romCharOf v) :=
  decode_encode_of_encodedFields (Laws.EncodedFields.romCharOf v)

/-! ### The statements -/

/-- Settles O16: the table is compared with the string, and its entries are what the look-up reads. -/
theorem alphabetIsTheString : Obligations.AlphabetIsTheString :=
  ⟨by decide, charRom_length, by decide, charRom_getElem? 36, charRom_getElem?⟩

/-- Settles O17: each of the three ranges. -/
theorem charRomContents : Obligations.CharRomContents :=
  fun v => ⟨romChar_toNat_of_digit v, romChar_toNat_of_letter v, romChar_toNat_of_symbol v⟩

/-- Settles O18: a code that is no entry of `CHAR_ROM` lies in no range that hits, and the rejected codes are none. -/
theorem valueRomContents : Obligations.ValueRomContents := by
  refine ⟨valueRom_romChar, fun c => valueRom_eq_zero, count_romValue_eq_none, fun c h => ?_, romValue_romChar 36⟩
  simp only [List.mem_cons, List.not_mem_nil, or_false] at h
  exact romValue_eq_none_of_bounds (by omega)

/-- Settles O19: a code with a value is the character of that value. -/
theorem romTablesAreInverse : Obligations.RomTablesAreInverse :=
  ⟨romValue_romChar, fun _ _ => exists_romChar_of_romValue⟩

/-- Settles O20: a look-up by code acts in one of two ways, by whether the code has a value. -/
theorem romValueOfResult : Obligations.RomValueOfResult := by
  refine ⟨fun c s => ⟨decode_encode_romValueOf c, fun v h => ?_, fun h => ?_⟩, romValue_romChar 36,
    romValue_eq_none_of_bounds (by decide), romValue_eq_none_of_bounds (by decide), fun c h => ?_,
    decode_encode_romValueOf 0x3A, romValue_romChar 44⟩
  · exact (Effect.valueFound c v s h).exec_eq
  · exact (Effect.valueMissed c s h).exec_eq
  · exact romValue_eq_none_of_bounds (by omega)

/-- Settles O21: a look-up by value acts in one of two ways, by whether the value is in range. -/
theorem romCharOfResult : Obligations.RomCharOfResult := by
  refine ⟨fun v s => ⟨decode_encode_romCharOf v, fun k h => ?_, fun h => ?_⟩, rfl, rfl,
    decode_encode_romCharOf 38, rfl⟩
  · exact (Effect.charFound v k s h).exec_eq
  · exact (Effect.charMissed v s h).exec_eq

end Sys2Proof.Machine
end

section
/-! SUPPORT. A run of commands, one command a step (spec 20_memory.md R60): the host presents each command's own word, so
each step acts in the way that command can. -/

namespace Sys2Proof

/-- A command's word decodes to the command: its fields are the ones the opcode map gives the command. -/
theorem decode_encode (i : Instr) : decode (encode i) = .ok i := by
  apply Machine.decode_encode_of_encodedFields
  cases i with
  | romValueOf c => exact Laws.EncodedFields.romValueOf c
  | romCharOf v => exact Laws.EncodedFields.romCharOf v
  | encReset => exact Laws.EncodedFields.encReset
  | encConsume b => exact Laws.EncodedFields.encConsume b
  | encFinalize => exact Laws.EncodedFields.encFinalize
  | decReset => exact Laws.EncodedFields.decReset
  | decConsume c => exact Laws.EncodedFields.decConsume c
  | decFinalize => exact Laws.EncodedFields.decFinalize
  | sizeDecMax => exact Laws.EncodedFields.sizeDecMax
  | sizeEnc => exact Laws.EncodedFields.sizeEnc

end Sys2Proof

namespace Sys2Proof.Machine

open Sys2Proof.Safety

variable {i : Instr} {is : List Instr} {s : State} {lenIn : Length}

/-- The state in which a command runs: its move is on the ports, and the moves of the commands after it are still to
come. -/
def State.presenting (s : State) (lenIn : Length) (i : Instr) (is : List Instr) : State :=
  { s with ports := commandMove lenIn i, pending := commandMoves lenIn is }

@[simp] theorem presenting_enc : (s.presenting lenIn i is).enc = s.enc := rfl
@[simp] theorem presenting_dec : (s.presenting lenIn i is).dec = s.dec := rfl

/-- The first command of a run acts, its response comes first, and the run goes on from the state it leaves. -/
theorem run_of_command (hp : s.pending = commandMoves lenIn (i :: is)) :
    ∃ t, Effect i (s.presenting lenIn i is) t ∧ t.pending = commandMoves lenIn is ∧
      responses s = t.rsp :: responses t ∧ endState s = endState t := by
  rw [commandMoves, List.map_cons] at hp
  obtain ⟨t, hs, -, ht, -⟩ := step_next_of_pending_cons hp
  exact ⟨t, effect_of_step hp rfl (decode_encode i) hs, ht, responses_of_step hp hs ht, endState_of_step hp hs ht⟩

end Sys2Proof.Machine
end

section
/-! SUPPORT. The encoder (spec 41_encode_fsm.md R120 to R126): its three commands, the digits it emits, and its streams. -/

namespace Sys2Proof.Machine

open Sys2Proof.Safety

variable {i : Instr} {s t : State} {lenIn : Length} {b0 b : Byte}

/-! ### Digits (R123) -/

theorem digitChar_eq_romChar (value : Nat) : digitChar value = romChar (Fin.ofNat 45 value) := rfl

theorem bytePairValue_thirdDigit_le (b0 b : Byte) : bytePairValue b0 b / 45 / 45 ≤ 32 := by
  have h := bytePairValue_le b0 b
  omega

theorem trailingByteValue_secondDigit_le (b : Byte) : trailingByteValue b / 45 ≤ 5 := by
  have h := b.isLt
  rw [trailingByteValue_eq]
  omega

/-! ### What every encoder command does (R126) -/

theorem isDecoder_eq_false_of_isEncoder (hi : isEncoder i = true) : isDecoder i = false := by
  cases i
  case encReset | encConsume | encFinalize => rfl
  all_goals cases hi

/-- No way for an encoder command to act is a failure. -/
theorem Effect.ok_of_encoder (h : Effect i s t) (hi : isEncoder i = true) :
    t.rsp.status = .ok ∧ t.rsp.detail = 0 := by
  cases h
  case encReset | byteHeld | groupEncoded | encEndedEmpty | trailingEncoded => exact ⟨rfl, rfl⟩
  all_goals cases hi

theorem Effect.dec_eq_of_encoder (h : Effect i s t) (hi : isEncoder i = true) : t.dec = s.dec :=
  h.dec_eq_of_not_decoder (isDecoder_eq_false_of_isEncoder hi)

/-- A run of encoder commands answers OK throughout and leaves the decoder alone, by induction on the commands. -/
theorem allOk_of_encoder_run (is : List Instr) (s : State) (hp : s.pending = commandMoves lenIn is)
    (his : ∀ i ∈ is, isEncoder i = true) : AllOk (responses s) ∧ (endState s).dec = s.dec := by
  induction is generalizing s with
  | nil =>
    rw [responses_of_pending_nil hp, endState_of_pending_nil hp]
    exact ⟨List.forall_mem_nil _, rfl⟩
  | cons i is ih =>
    obtain ⟨hi, his⟩ := List.forall_mem_cons.mp his
    obtain ⟨t, heff, ht, hresponses, hend⟩ := run_of_command hp
    obtain ⟨hok, hdec⟩ := ih t ht his
    obtain ⟨hstatus, -⟩ := heff.ok_of_encoder hi
    rw [hresponses, hend]
    exact ⟨List.forall_mem_cons.mpr ⟨hstatus, hok⟩, hdec.trans (heff.dec_eq_of_encoder hi)⟩

/-! ### What the encoder still owes (R124)

The bytes taken and not yet encoded are the pending one, if any. The units a command emits and the encoding of what it
leaves pending together are the encoding of what was pending and what the command brings. -/

/-- The bytes the encoder has taken and not yet encoded. -/
def EncRegs.pendingBytes (e : EncRegs) : List Byte := if e.pend then [e.byte] else []

theorem pendingBytes_of_empty {e : EncRegs} (h : e.pend = false) : e.pendingBytes = [] := by
  simp [EncRegs.pendingBytes, h]

theorem pendingBytes_of_pending {e : EncRegs} (h : e.pend = true) : e.pendingBytes = [e.byte] := by
  simp [EncRegs.pendingBytes, h]

/-- The units of a group are the first of the encoding of a stream that begins with its two bytes. -/
theorem encodeBytes_group (b0 b : Byte) (rest : List Byte) :
    encodeBytes (b0 :: b :: rest) = (emitByteGroup (bytePairValue b0 b)).units ++ encodeBytes rest := by
  simp [encodeBytes, bytePairValue_eq, Nat.div_div_eq_div_mul]

theorem encodeBytes_trailing (b : Byte) : encodeBytes [b] = (emitTrailingByte (trailingByteValue b)).units := by
  simp [encodeBytes, trailingByteValue_eq]

theorem Effect.encConsume_units (h : Effect (.encConsume b) s t) (rest : List Byte) :
    t.rsp.units ++ encodeBytes (t.enc.pendingBytes ++ rest) = encodeBytes (s.enc.pendingBytes ++ b :: rest) := by
  cases h
  case byteHeld hpend => rw [pendingBytes_of_empty hpend]; rfl
  case groupEncoded hpend => rw [pendingBytes_of_pending hpend]; exact (encodeBytes_group _ b rest).symm

theorem Effect.encFinalize_units (h : Effect .encFinalize s t) : t.rsp.units = encodeBytes s.enc.pendingBytes := by
  cases h
  case encEndedEmpty hpend => rw [pendingBytes_of_empty hpend]; rfl
  case trailingEncoded hpend => rw [pendingBytes_of_pending hpend]; exact (encodeBytes_trailing _).symm

/-- No command leaves a byte in an encoder in which none is pending (R22, R33). -/
theorem Effect.encLegal (h : Effect i s t) (hs : EncLegal s.enc) : EncLegal t.enc := by
  cases h
  case byteHeld => exact nofun
  case encReset | groupEncoded | trailingEncoded => exact fun _ => rfl
  all_goals exact hs

/-- ENC_FINALIZE leaves the encoder `Empty`. -/
theorem Effect.encFinalize_pend (h : Effect .encFinalize s t) : t.enc.pend = false := by
  cases h
  case encEndedEmpty hpend => exact hpend
  case trailingEncoded => rfl

theorem eq_empty_of_encLegal {e : EncRegs} (he : EncLegal e) (hpend : e.pend = false) : e = ⟨false, 0⟩ := by
  obtain ⟨pend, byte⟩ := e
  obtain rfl : pend = false := hpend
  obtain rfl : byte = 0 := he rfl
  rfl

/-! ### Streams (R124, R125) -/

/-- From any legal state of the encoder, the consumes of a stream and its finalize deliver the encoding of the pending
byte and the stream's bytes, by induction on the bytes. -/
theorem delivered_of_consumes (bytes : List Byte) (s : State) (hs : EncLegal s.enc)
    (hp : s.pending = commandMoves lenIn (bytes.map .encConsume ++ [.encFinalize])) :
    delivered (responses s) = encodeBytes (s.enc.pendingBytes ++ bytes) ∧ (endState s).enc = ⟨false, 0⟩ := by
  induction bytes generalizing s with
  | nil =>
    obtain ⟨t, heff, ht, hresponses, hend⟩ := run_of_command hp
    rw [hresponses, hend, responses_of_pending_nil ht, endState_of_pending_nil ht]
    refine ⟨?_, eq_empty_of_encLegal (heff.encLegal hs) heff.encFinalize_pend⟩
    simp [delivered, heff.encFinalize_units]
  | cons b bytes ih =>
    obtain ⟨t, heff, ht, hresponses, hend⟩ := run_of_command hp
    obtain ⟨hdelivered, henc⟩ := ih t (heff.encLegal hs) ht
    rw [hresponses, hend]
    refine ⟨?_, henc⟩
    calc delivered (t.rsp :: responses t)
        = t.rsp.units ++ delivered (responses t) := List.flatMap_cons
      _ = t.rsp.units ++ encodeBytes (t.enc.pendingBytes ++ bytes) := by rw [hdelivered]
      _ = encodeBytes (s.enc.pendingBytes ++ b :: bytes) := heff.encConsume_units bytes

/-- ENC_STREAM's reset discards what was pending and delivers nothing, so the rest delivers the encoding of its bytes. -/
theorem delivered_encStream (s : State) (lenIn : Length) (bytes : List Byte) :
    delivered (responses (s.facing (commandMoves lenIn (encStream bytes)))) = encodeBytes bytes ∧
      (endState (s.facing (commandMoves lenIn (encStream bytes)))).enc = ⟨false, 0⟩ := by
  obtain ⟨t, heff, ht, hresponses, hend⟩ := run_of_command (s := s.facing (commandMoves lenIn (encStream bytes))) rfl
  cases heff
  rw [hresponses, hend]
  exact delivered_of_consumes bytes _ (fun _ => rfl) ht

theorem isEncoder_of_mem_encStream {bytes : List Byte} (hi : i ∈ encStream bytes) : isEncoder i = true := by
  simp only [encStream, List.mem_cons, List.mem_append, List.mem_map, List.not_mem_nil, or_false] at hi
  rcases hi with rfl | ⟨b, -, rfl⟩ | rfl <;> rfl

theorem encodeBytes_length (bytes : List Byte) : (encodeBytes bytes).length = encExactSize bytes.length := by
  induction bytes using encodeBytes.induct with
  | case1 => rfl
  | case2 b => simp [encodeBytes, encExactSize]
  | case3 b0 b1 rest ih =>
    simp only [encodeBytes, List.length_cons, ih, encExactSize]
    omega

/-! ### Sizes (R125, R171) -/

/-- A length that SIZE_ENC accepts has an encoded size that the platform can represent. -/
theorem encExactSize_le {maxLen n : Nat} (h : n ≤ encThreshold maxLen) : encExactSize n ≤ maxLen := by
  unfold encThreshold at h
  unfold encExactSize
  omega

/-- A size that SIZE_ENC answers is the exact size: it fits the result field. -/
theorem Effect.sizeEnc_result (h : Effect .sizeEnc s t) (hok : t.rsp.status = .ok) :
    t.rsp.result.toNat = encExactSize s.ports.lenIn.toNat := by
  cases h
  case encSized hn =>
    have hsize := encExactSize_le hn
    have hmax := s.config.maxLen_le
    exact (BitVec.toNat_ofNat _ 32).trans (Nat.mod_eq_of_lt (by omega))
  case encSizeTooLarge => cases hok

/-! ### The commands' results (R121, R122) -/

theorem exec_encConsume_units (h : s.enc = ⟨true, b0⟩) :
    ∃ t, exec (.encConsume b) s = .next t ∧ t.rsp.units = (emitByteGroup (bytePairValue b0 b)).units :=
  ⟨_, (Effect.groupEncoded b s (by rw [h])).exec_eq, by rw [h]; rfl⟩

theorem exec_encFinalize_units (h : s.enc = ⟨true, b⟩) :
    ∃ t, exec .encFinalize s = .next t ∧ t.rsp.units = (emitTrailingByte (trailingByteValue b)).units :=
  ⟨_, (Effect.trailingEncoded s (by rw [h])).exec_eq, by rw [h]; rfl⟩

/-! ### The statements -/

/-- Settles O22: ENC_RESET acts in one way. -/
theorem encResetResult : Obligations.EncResetResult :=
  ⟨decode_encode .encReset, fun s => ⟨(Effect.encReset s).exec_eq, ok_word⟩⟩

/-- Settles O25: the bounds on the two values bound their last digits, and every digit is a remainder. -/
theorem encoderDigitBounds : Obligations.EncoderDigitBounds := by
  intro b0 b
  have hthird := bytePairValue_thirdDigit_le b0 b
  have hsecond := trailingByteValue_secondDigit_le b
  exact ⟨Nat.lt_succ_of_le (bytePairValue_le b0 b), hthird, Nat.mod_eq_of_lt (by omega), hsecond,
    Nat.mod_eq_of_lt (by omega), fun value => ⟨Fin.ofNat 45 value, rfl, digitChar_eq_romChar value⟩⟩

/-- Settles O26: no way for an encoder command to act fails or touches the decoder. -/
theorem encoderNeverFails : Obligations.EncoderNeverFails := by
  refine ⟨fun i s hi => ?_, by decide, by decide⟩
  obtain ⟨t, ht, heff⟩ := exec_effect i s
  obtain ⟨hstatus, hdetail⟩ := heff.ok_of_encoder hi
  exact ⟨t, ht, hstatus, hdetail, heff.dec_eq_of_encoder hi, heff.sameSurroundings⟩

/-- Settles O23: ENC_CONSUME acts in one of two ways, by whether a byte is pending. -/
theorem encConsumeResult : Obligations.EncConsumeResult := by
  refine ⟨fun b s => ⟨decode_encode (.encConsume b), fun hpend => (Effect.byteHeld b s hpend).exec_eq, fun hpend => ?_⟩,
    fun s => ⟨exec_encConsume_units, exec_encConsume_units, exec_encConsume_units, exec_encConsume_units⟩⟩
  have hthird := bytePairValue_thirdDigit_le s.enc.byte b
  rw [Nat.div_div_eq_div_mul] at hthird
  simp only [← bytePairValue_eq]
  exact ⟨(Effect.groupEncoded b s hpend).exec_eq, Nat.mod_eq_of_lt (by omega), hthird⟩

/-- Settles O24: ENC_FINALIZE acts in one of two ways, by whether a byte is pending, and leaves none pending. -/
theorem encFinalizeResult : Obligations.EncFinalizeResult := by
  have hempty : ∀ s : State, s.enc.pend = false → exec .encFinalize s = .next { s with rsp := Response.zero } :=
    fun s hpend => (Effect.encEndedEmpty s hpend).exec_eq
  refine ⟨decode_encode .encFinalize, fun s => ⟨hempty s, fun hpend => ?_, exec_encFinalize_units,
    exec_encFinalize_units, exec_encFinalize_units, fun t u ht hu => ?_⟩⟩
  · have hsecond := trailingByteValue_secondDigit_le s.enc.byte
    simp only [← trailingByteValue_eq]
    exact ⟨(Effect.trailingEncoded s hpend).exec_eq, Nat.mod_eq_of_lt (by omega), hsecond⟩
  · rw [hempty t (effect_of_exec ht).encFinalize_pend] at hu
    cases hu
    rfl

/-- Settles O27: the run consists of encoder commands, and what it delivers follows by induction on the bytes. -/
theorem encodeStreamOutput : Obligations.EncodeStreamOutput := by
  refine ⟨rfl, fun s lenIn bytes => ?_⟩
  obtain ⟨hok, hdec⟩ := allOk_of_encoder_run (encStream bytes) (s.facing (commandMoves lenIn (encStream bytes))) rfl
    fun _ => isEncoder_of_mem_encStream
  obtain ⟨hdelivered, henc⟩ := delivered_encStream s lenIn bytes
  exact ⟨hok, hdelivered, henc, hdec⟩

/-- Settles O28: the run delivers the encoding of its bytes, whose length is the size SIZE_ENC computes. -/
theorem encodedLengthLaw : Obligations.EncodedLengthLaw := by
  intro s lenIn bytes out
  have hout : out = encodeBytes bytes := (delivered_encStream s lenIn bytes).1
  rw [hout, encodeBytes_length]
  refine ⟨rfl, fun q t hlen hexec hok => ?_⟩
  rw [(effect_of_exec hexec).sizeEnc_result hok, hlen]

end Sys2Proof.Machine
end

section
/-! SUPPORT. The decoder (spec 42_decode_fsm.md R140 to R147): what its three commands do in each state, the failed state,
and the values of its groups. -/

namespace Sys2Proof.Machine

open Sys2Proof.Safety

variable {i : Instr} {s t : State} {p : Ports} {rest : List Ports} {c : Byte} {v v0 v1 : Value}

/-! ### Group values (R147) -/

theorem tripleValue_le (h0 : v0.toNat ≤ 44) (h1 : v1.toNat ≤ 44) (h : v.toNat ≤ 44) : tripleValue v0 v1 v ≤ 91124 := by
  rw [tripleValue_eq]
  omega

theorem pairValue_le (h0 : v0.toNat ≤ 44) (h1 : v1.toNat ≤ 44) : pairValue v0 v1 ≤ 2024 := by
  rw [pairValue_eq]
  omega

/-- The bytes of an accepted triple are the digits of its value in base 256. -/
theorem tripleHigh_tripleLow_toNat {triple : Nat} (h : triple ≤ 65535) :
    (tripleHigh triple).toNat * 256 + (tripleLow triple).toNat = triple := by
  rw [tripleHigh_eq, tripleLow_eq, BitVec.toNat_ofNat, BitVec.toNat_ofNat]
  omega

theorem pairByte_toNat {pair : Nat} (h : pair ≤ 255) : (BitVec.ofNat 8 pair).toNat = pair :=
  (BitVec.toNat_ofNat pair 8).trans (Nat.mod_eq_of_lt (by omega))

/-! ### The failed state (R145) -/

theorem exec_of_failed (hf : s.dec.fail = true) (hi : feedsDecoder i = true) : exec i s = .next (reportFailed s) := by
  rcases feedsDecoder_iff.mp hi with ⟨c, rfl⟩ | rfl
  · exact (Effect.consumeFailedBefore c s hf).exec_eq
  · exact (Effect.finalizeFailedBefore s hf).exec_eq

/-- No command but DEC_RESET takes a failed decoder out of the failed state. -/
theorem Effect.eq_decReset_of_recovers (h : Effect i s t) (hf : s.dec.fail = true) (ht : t.dec.fail = false) :
    i = .decReset := by
  cases h
  case decReset => rfl
  all_goals simp [hf] at ht

theorem step_recovers (hf : s.dec.fail = true) (hp : s.pending = p :: rest) (hs : step s = .next t)
    (ht : t.dec.fail = false) : p.rst = true ∨ decode p.cmd = .ok .decReset := by
  rcases step_effect hp hs with ⟨hr, -⟩ | ⟨-, i, hd, heff⟩ | ⟨-, e, -, rfl⟩
  · exact .inl hr
  · exact .inr (heff.eq_decReset_of_recovers hf ht ▸ hd)
  · simp [hf] at ht

/-! ### The commands' results (R141, R143) -/

/-- A triple's bytes as R141 writes them. -/
theorem emitTriple_eq (triple : Nat) :
    emitTriple triple =
      { Response.zero with n := 2, out0 := BitVec.ofNat 8 (triple / 256), out1 := BitVec.ofNat 8 (triple % 256) } := by
  rw [emitTriple, emit_two, tripleHigh_eq, tripleLow_eq]

theorem exec_decConsume_units (hf : s.dec.fail = false) (hc : s.dec.count = .two) (h0 : s.dec.v0 = v0)
    (h1 : s.dec.v1 = v1) (hv : romValue c = some v) (ht : tripleValue v0 v1 v ≤ 65535) :
    ∃ t, exec (.decConsume c) s = .next t ∧
      t.rsp.units = [tripleHigh (tripleValue v0 v1 v), tripleLow (tripleValue v0 v1 v)] := by
  subst h0 h1
  exact ⟨_, (Effect.tripleDecoded c v s hf hv hc ht).exec_eq, emitTriple_units _⟩

theorem exec_decConsume_tooLarge (hf : s.dec.fail = false) (hc : s.dec.count = .two) (h0 : s.dec.v0 = v0)
    (h1 : s.dec.v1 = v1) (hv : romValue c = some v) (ht : 65535 < tripleValue v0 v1 v) :
    ∃ t, exec (.decConsume c) s = .next t ∧ t.rsp.status = .malformedEncoding ∧ t.rsp.detail = 2 := by
  subst h0 h1
  exact ⟨_, (Effect.tripleTooLarge c v s hf hv hc ht).exec_eq, rfl, rfl⟩

theorem exec_decFinalize_units (hf : s.dec.fail = false) (hc : s.dec.count = .two) (h0 : s.dec.v0 = v0)
    (h1 : s.dec.v1 = v1) (hp : pairValue v0 v1 ≤ 255) :
    ∃ t, exec .decFinalize s = .next t ∧ t.rsp.units = [BitVec.ofNat 8 (pairValue v0 v1)] := by
  subst h0 h1
  exact ⟨_, (Effect.pairDecoded s hf hc hp).exec_eq, emit_one_units _⟩

theorem exec_decFinalize_tooLarge (hf : s.dec.fail = false) (hc : s.dec.count = .two) (h0 : s.dec.v0 = v0)
    (h1 : s.dec.v1 = v1) (hp : 255 < pairValue v0 v1) :
    ∃ t, exec .decFinalize s = .next t ∧ t.rsp.detail = 3 := by
  subst h0 h1
  exact ⟨_, (Effect.pairTooLarge s hf hc hp).exec_eq, rfl⟩

/-- A finalize that succeeds leaves no pending value. -/
theorem Effect.decFinalize_empty (h : Effect .decFinalize s t) (hok : t.rsp.status = .ok) :
    t.dec.fail = false ∧ t.dec.count = .zero := by
  cases h
  case decEndedEmpty hf hc => exact ⟨hf, hc⟩
  case pairDecoded hf hc hp => exact ⟨hf, rfl⟩
  all_goals cases hok

/-! ### The statements -/

/-- Settles O39: a value is at most 44, and an accepted group's value fits the bytes that leave. -/
theorem decoderDatapathBounds : Obligations.DecoderDatapathBounds := by
  refine ⟨fun v0 v1 v h0 h1 h => ?_, rfl, rfl⟩
  have htriple := tripleValue_le h0 h1 h
  have hpair := pairValue_le h0 h1
  exact ⟨htriple, by omega, hpair, by omega, tripleHigh_tripleLow_toNat, pairByte_toNat⟩

/-- Settles O29: DEC_RESET acts in one way, and no other way for a command to act clears the latch. -/
theorem decResetResult : Obligations.DecResetResult :=
  ⟨decode_encode .decReset, ok_word, fun s => (Effect.decReset s).exec_eq,
    fun _ _ _ hf hexec ht => (effect_of_exec hexec).eq_decReset_of_recovers hf ht⟩

/-- Settles O33: a failed decoder turns both commands away, and a step that clears the latch is `rst` or DEC_RESET. -/
theorem failedDecoderOnlyReports : Obligations.FailedDecoderOnlyReports :=
  ⟨fun _ _ hf hi => exec_of_failed hf (feedsDecoder_iff.mpr hi.symm), fun _ _ _ _ hf hp hs ht => step_recovers hf hp hs ht⟩

/-- Settles O30: each arm of the rule is one way for DEC_CONSUME to act, and the corner cases are arms on given values. -/
theorem decConsumeResult : Obligations.DecConsumeResult := by
  refine ⟨fun c s => ⟨decode_encode (.decConsume c), fun hf => exec_of_failed hf rfl,
      fun hf hv => (Effect.notInAlphabet c s hf hv).exec_eq, fun v hf hv =>
        ⟨fun hc => (Effect.firstHeld c v s hf hv hc).exec_eq, fun hc => (Effect.secondHeld c v s hf hv hc).exec_eq,
          fun hc => ?_⟩⟩,
    by decide, by decide, by decide, by decide, by decide, fun c hlow _ => romValue_eq_none_of_bounds (by omega),
    fun s hf hc => ⟨fun h0 h1 => exec_decConsume_units hf hc h0 h1 (v := 32) (by decide) (by decide),
      fun h0 h1 => exec_decConsume_tooLarge hf hc h0 h1 (v := 32) (by decide) (by decide),
      fun h0 h1 => exec_decConsume_tooLarge hf hc h0 h1 (v := 44) (by decide) (by decide),
      fun h0 h1 => exec_decConsume_units hf hc h0 h1 (v := 8) (by decide) (by decide)⟩⟩
  simp only [← tripleValue_eq, ← emitTriple_eq]
  exact ⟨fun ht => (Effect.tripleDecoded c v s hf hv hc ht).exec_eq,
    fun ht => (Effect.tripleTooLarge c v s hf hv hc ht).exec_eq⟩

/-- Settles O31: each arm of the rule is one way for DEC_FINALIZE to act, and one that succeeds leaves nothing for a
second. -/
theorem decFinalizeResult : Obligations.DecFinalizeResult := by
  have hempty : ∀ s : State, s.dec.fail = false → s.dec.count = .zero →
      exec .decFinalize s = .next { s with rsp := Response.zero } :=
    fun s hf hc => (Effect.decEndedEmpty s hf hc).exec_eq
  refine ⟨decode_encode .decFinalize, fun s => ⟨fun hf => exec_of_failed hf rfl, hempty s,
    fun hf hc => (Effect.truncated s hf hc).exec_eq, fun hf hc =>
      ⟨fun hp => (Effect.pairDecoded s hf hc hp).exec_eq, fun hp => (Effect.pairTooLarge s hf hc hp).exec_eq,
        fun h0 h1 => exec_decFinalize_units hf hc h0 h1 (by decide),
        fun h0 h1 => exec_decFinalize_tooLarge hf hc h0 h1 (by decide),
        fun h0 h1 => exec_decFinalize_tooLarge hf hc h0 h1 (by decide),
        fun h0 h1 => exec_decFinalize_units hf hc h0 h1 (by decide),
        fun h0 h1 => exec_decFinalize_units hf hc h0 h1 (by decide)⟩,
    fun t u ht hok hu => ?_⟩⟩
  obtain ⟨hf, hc⟩ := (effect_of_exec ht).decFinalize_empty hok
  rw [hempty t hf hc] at hu
  cases hu
  rfl

end Sys2Proof.Machine
end
section
/-! SUPPORT. The decoder's streams (spec 42_decode_fsm.md R148, R149): the codes it still holds, why a run of DEC_STREAM
ends as `Decode` says, and that `Encode` and `Decode` are inverse. -/

namespace Sys2Proof.Machine

open Sys2Proof.Safety

variable {i : Instr} {s t : State} {lenIn : Length} {c c0 c1 : Byte} {v v0 v1 : Value} {r : Response}
  {rs : List Response}

/-! ### How a run ends -/

/-- What a host sees of a run: the units it receives, and the end it is told of. -/
def outcome (rs : List Response) : List Byte × StreamEnd := (delivered rs, streamEnd rs)

theorem outcome_cons_of_ok (h : r.status = .ok) :
    outcome (r :: rs) = (r.units ++ (outcome rs).1, (outcome rs).2) := by
  simp [outcome, delivered, streamEnd, h]

theorem outcome_cons_of_not_ok (h : r.status ≠ .ok) :
    outcome (r :: rs) = (r.units ++ delivered rs, .failure r.status r.detail) := by
  simp [outcome, delivered, streamEnd, h]

theorem streamEnd_eq_success_iff : streamEnd rs = .success ↔ AllOk rs := by
  induction rs with
  | nil => exact iff_of_true rfl (List.forall_mem_nil _)
  | cons r rs ih =>
    rw [AllOk, List.forall_mem_cons, ← AllOk, ← ih, streamEnd]
    split <;> simp_all

/-! ### Runs of the decoder's commands -/

/-- A failed decoder answers every DEC_CONSUME and DEC_FINALIZE of a run with the first failure, by induction on the
commands. -/
theorem responses_of_failed (is : List Instr) (s : State) (hp : s.pending = commandMoves lenIn is)
    (hf : s.dec.fail = true) (his : ∀ i ∈ is, feedsDecoder i = true) :
    responses s = List.replicate is.length (.failedBefore s.dec) := by
  induction is generalizing s with
  | nil => exact responses_of_pending_nil hp
  | cons i is ih =>
    obtain ⟨hi, his⟩ := List.forall_mem_cons.mp his
    obtain ⟨t, heff, ht, hresponses, -⟩ := run_of_command hp
    rw [← presenting_dec (lenIn := lenIn) (i := i) (is := is)] at hf
    obtain rfl : reportFailed (s.presenting lenIn i is) = t := by simpa [exec_of_failed hf hi] using heff.exec_eq
    rw [hresponses, ih _ ht hf his]
    rfl

theorem delivered_of_failed {is : List Instr} (hp : s.pending = commandMoves lenIn is) (hf : s.dec.fail = true)
    (his : ∀ i ∈ is, feedsDecoder i = true) : delivered (responses s) = [] := by
  rw [responses_of_failed is s hp hf his, delivered, List.flatMap_eq_nil_iff]
  intro r hr
  rw [List.eq_of_mem_replicate hr, failedBefore_units]

theorem feedsDecoder_of_mem_consumes {codes : List Byte} (hi : i ∈ codes.map .decConsume ++ [.decFinalize]) :
    feedsDecoder i = true := by
  simp only [List.mem_append, List.mem_map, List.mem_singleton] at hi
  rcases hi with ⟨c, -, rfl⟩ | rfl <;> rfl

theorem movesEncoder_commandMove (lenIn : Length) (i : Instr) : movesEncoder (commandMove lenIn i) = isEncoder i :=
  actsOn_of_decode rfl (decode_encode i)

/-- A stream of the decoder has no move that acts on the encoder, so it leaves the encoder's registers alone (R61). -/
theorem enc_endState_decStream (s : State) (lenIn : Length) (codes : List Byte) :
    (endState (s.facing (commandMoves lenIn (decStream codes)))).enc = s.enc := by
  have hnone : (commandMoves lenIn (decStream codes)).filter movesEncoder = [] := by
    simp [commandMoves, decStream, movesEncoder_commandMove, isEncoder]
  obtain ⟨-, henc, -⟩ := interleavedStreamsAreIndependent s (commandMoves lenIn (decStream codes))
  rw [henc, hnone, endState_of_pending_nil rfl, facing_enc]

/-! ### The codes a decoder holds (R148)

A decoder that has not failed holds the values of the codes it has taken since the last complete group. What a command
delivers, followed by what `Decode` makes of the codes then held and those to come, is what `Decode` makes of the codes
held before and those to come. -/

/-- `Holds d cs`: a decoder with the registers `d` has not failed and holds the values of the codes `cs`. -/
inductive Holds : DecRegs → List Byte → Prop
  | none : Holds .reset []
  | one {c0 : Byte} {v0 : Value} (h0 : romValue c0 = some v0) : Holds ⟨.one, v0, 0, false, 0, 0⟩ [c0]
  | two {c0 c1 : Byte} {v0 v1 : Value} (h0 : romValue c0 = some v0) (h1 : romValue c1 = some v1) :
      Holds ⟨.two, v0, v1, false, 0, 0⟩ [c0, c1]

/-- A code outside the alphabet in the first group is the first failure, wherever in the group it stands. -/
theorem decodeCodes_of_miss {d : DecRegs} {cs : List Byte} (hs : Holds d cs) (hc : romValue c = none) (rest : List Byte) :
    decodeCodes (cs ++ c :: rest) = ([], .failure .malformedEncoding 1) := by
  cases hs
  case none => rcases rest with _ | ⟨c1, _ | ⟨c2, rest⟩⟩ <;> simp [decodeCodes, hc]
  case one h0 => rcases rest with _ | ⟨c2, rest⟩ <;> simp [decodeCodes, h0, hc]
  case two h0 h1 => simp [decodeCodes, h0, h1, hc]

/-- A complete group within range: its two bytes, then the rest of the stream. -/
theorem decodeCodes_of_triple (h0 : romValue c0 = some v0) (h1 : romValue c1 = some v1) (h : romValue c = some v)
    (ht : tripleValue v0 v1 v ≤ 65535) (rest : List Byte) :
    decodeCodes (c0 :: c1 :: c :: rest) =
      ((emitTriple (tripleValue v0 v1 v)).units ++ (decodeCodes rest).1, (decodeCodes rest).2) := by
  rw [emitTriple_units, tripleHigh_eq, tripleLow_eq]
  rw [tripleValue_eq] at ht ⊢
  simp [decodeCodes, h0, h1, h, ht]

theorem decodeCodes_of_tripleTooLarge (h0 : romValue c0 = some v0) (h1 : romValue c1 = some v1)
    (h : romValue c = some v) (ht : 65535 < tripleValue v0 v1 v) (rest : List Byte) :
    decodeCodes (c0 :: c1 :: c :: rest) = ([], .failure .malformedEncoding 2) := by
  rw [tripleValue_eq] at ht
  simp [decodeCodes, h0, h1, h, Nat.not_le.mpr ht]

theorem decodeCodes_of_pair (h0 : romValue c0 = some v0) (h1 : romValue c1 = some v1) (hp : pairValue v0 v1 ≤ 255) :
    decodeCodes [c0, c1] = ([BitVec.ofNat 8 (pairValue v0 v1)], .success) := by
  rw [pairValue_eq] at hp ⊢
  simp [decodeCodes, h0, h1, hp]

theorem decodeCodes_of_pairTooLarge (h0 : romValue c0 = some v0) (h1 : romValue c1 = some v1)
    (hp : 255 < pairValue v0 v1) : decodeCodes [c0, c1] = ([], .failure .malformedEncoding 3) := by
  rw [pairValue_eq] at hp
  simp [decodeCodes, h0, h1, Nat.not_le.mpr hp]

/-- DEC_CONSUME either fails, and then `Decode` fails so whatever comes after, or goes on with the codes it holds. -/
theorem Effect.decConsume_decodes (h : Effect (.decConsume c) s t) {cs : List Byte} (hs : Holds s.dec cs) :
    (t.rsp.status ≠ .ok ∧ t.rsp.units = [] ∧ t.dec.fail = true ∧
      ∀ rest, decodeCodes (cs ++ c :: rest) = ([], .failure t.rsp.status t.rsp.detail)) ∨
    (t.rsp.status = .ok ∧ ∃ cs', Holds t.dec cs' ∧ ∀ rest, decodeCodes (cs ++ c :: rest) =
      (t.rsp.units ++ (decodeCodes (cs' ++ rest)).1, (decodeCodes (cs' ++ rest)).2)) := by
  obtain ⟨e, d, p, q, ps, k⟩ := s
  change Holds d cs at hs
  cases h
  case notInAlphabet hv hf => exact .inl ⟨nofun, rfl, rfl, decodeCodes_of_miss hs hv⟩
  case consumeFailedBefore hf => cases hs <;> cases hf
  case firstHeld v hv hf hc =>
    cases hs
    case none => exact .inr ⟨rfl, [c], .one hv, fun _ => rfl⟩
    all_goals cases hc
  case secondHeld v hv hf hc =>
    cases hs
    case one c0 v0 h0 => exact .inr ⟨rfl, [c0, c], .two h0 hv, fun _ => rfl⟩
    all_goals cases hc
  case tripleDecoded v hv hf hc ht =>
    cases hs
    case two h0 h1 => exact .inr ⟨rfl, [], .none, decodeCodes_of_triple h0 h1 hv ht⟩
    all_goals cases hc
  case tripleTooLarge v hv hf hc ht =>
    cases hs
    case two h0 h1 => exact .inl ⟨nofun, rfl, rfl, decodeCodes_of_tripleTooLarge h0 h1 hv ht⟩
    all_goals cases hc

/-- DEC_FINALIZE ends the stream as `Decode` ends on the codes held, and resets the decoder if it succeeds. -/
theorem Effect.decFinalize_decodes (h : Effect .decFinalize s t) {cs : List Byte} (hs : Holds s.dec cs) :
    outcome [t.rsp] = decodeCodes cs ∧ ((decodeCodes cs).2 = .success → t.dec = .reset) := by
  obtain ⟨e, d, p, q, ps, k⟩ := s
  change Holds d cs at hs
  cases h
  case finalizeFailedBefore hf => cases hs <;> cases hf
  case decEndedEmpty hf hc =>
    cases hs
    case none => exact ⟨rfl, fun _ => rfl⟩
    all_goals cases hc
  case truncated hf hc =>
    cases hs
    case one h0 =>
      simp only [decodeCodes, h0]
      exact ⟨rfl, nofun⟩
    all_goals cases hc
  case pairDecoded hf hc hp =>
    cases hs
    case two h0 h1 =>
      rw [decodeCodes_of_pair h0 h1 hp]
      exact ⟨rfl, fun _ => rfl⟩
    all_goals cases hc
  case pairTooLarge hf hc hp =>
    cases hs
    case two h0 h1 =>
      rw [decodeCodes_of_pairTooLarge h0 h1 hp]
      exact ⟨rfl, nofun⟩
    all_goals cases hc

/-! ### Streams (R148) -/

/-- From a decoder that holds some codes, the consumes of a stream and its finalize end as `Decode` says of the codes held
and the stream's, by induction on the stream's codes. -/
theorem outcome_of_consumes (codes : List Byte) (s : State) {cs : List Byte} (hs : Holds s.dec cs)
    (hp : s.pending = commandMoves lenIn (codes.map .decConsume ++ [.decFinalize])) :
    outcome (responses s) = decodeCodes (cs ++ codes) ∧
      ((decodeCodes (cs ++ codes)).2 = .success → (endState s).dec = .reset) := by
  induction codes generalizing s cs with
  | nil =>
    obtain ⟨t, heff, ht, hresponses, hend⟩ := run_of_command hp
    rw [hresponses, hend, responses_of_pending_nil ht, endState_of_pending_nil ht, List.append_nil]
    exact heff.decFinalize_decodes hs
  | cons c codes ih =>
    obtain ⟨t, heff, ht, hresponses, hend⟩ := run_of_command hp
    rw [hresponses, hend]
    rcases heff.decConsume_decodes hs with ⟨hfailed, hunits, hf, hdecode⟩ | ⟨hok, cs', hs', hdecode⟩
    · have hdelivered : delivered (responses t) = [] :=
        delivered_of_failed ht hf fun _ => feedsDecoder_of_mem_consumes
      rw [outcome_cons_of_not_ok hfailed, hunits, hdelivered, hdecode]
      exact ⟨rfl, nofun⟩
    · obtain ⟨houtcome, hreset⟩ := ih t hs' ht
      rw [outcome_cons_of_ok hok, houtcome, hdecode]
      exact ⟨rfl, hreset⟩

/-- DEC_STREAM's reset delivers nothing and leaves a decoder that holds no code, so the rest ends as `Decode` of its codes
does. -/
theorem outcome_decStream (s : State) (lenIn : Length) (codes : List Byte) :
    outcome (responses (s.facing (commandMoves lenIn (decStream codes)))) = decodeCodes codes ∧
      ((decodeCodes codes).2 = .success →
        (endState (s.facing (commandMoves lenIn (decStream codes)))).dec = .reset) := by
  obtain ⟨t, heff, ht, hresponses, hend⟩ := run_of_command (s := s.facing (commandMoves lenIn (decStream codes))) rfl
  cases heff
  rw [hresponses, hend, outcome_cons_of_ok rfl]
  exact outcome_of_consumes codes _ .none ht

theorem delivered_decStream (s : State) (lenIn : Length) (codes : List Byte) :
    delivered (responses (s.facing (commandMoves lenIn (decStream codes)))) = (decodeCodes codes).1 :=
  congrArg Prod.fst (outcome_decStream s lenIn codes).1

theorem streamEnd_decStream (s : State) (lenIn : Length) (codes : List Byte) :
    streamEnd (responses (s.facing (commandMoves lenIn (decStream codes)))) = (decodeCodes codes).2 :=
  congrArg Prod.snd (outcome_decStream s lenIn codes).1

/-- DEC_STREAM answers OK throughout exactly when `Decode` succeeds. -/
theorem allOk_decStream_iff (s : State) (lenIn : Length) (codes : List Byte) :
    AllOk (responses (s.facing (commandMoves lenIn (decStream codes)))) ↔ (decodeCodes codes).2 = .success := by
  rw [← streamEnd_eq_success_iff, streamEnd_decStream]

/-! ### `Encode` and `Decode` are inverse (R149) -/

/-- A digit's character has the digit as its value. -/
theorem exists_romValue_digitChar (value : Nat) :
    ∃ v : Value, romValue (digitChar value) = some v ∧ v.toNat = value % 45 := by
  refine ⟨_, romValue_romChar _, ?_⟩
  rw [BitVec.toNat_ofNat]
  dsimp only
  omega

/-- A code whose value is a number's least significant digit is that digit's character. -/
theorem digitChar_eq_of_romValue {value : Nat} (h : romValue c = some v) (hv : v.toNat = value % 45) :
    digitChar value = c := by
  obtain ⟨hlt, rfl⟩ := exists_romChar_of_romValue h
  exact congrArg romChar (Fin.ext hv.symm)

/-- The three digits of a value of 16 bits make it up, so they decode to its bytes. -/
theorem decodeCodes_digits {value : Nat} (hvalue : value ≤ 65535) (rest : List Byte) :
    decodeCodes (digitChar value :: digitChar (value / 45) :: digitChar (value / 2025) :: rest) =
      ((emitTriple value).units ++ (decodeCodes rest).1, (decodeCodes rest).2) := by
  obtain ⟨v0, h0, hv0⟩ := exists_romValue_digitChar value
  obtain ⟨v1, h1, hv1⟩ := exists_romValue_digitChar (value / 45)
  obtain ⟨v2, h2, hv2⟩ := exists_romValue_digitChar (value / 2025)
  have htriple : tripleValue v0 v1 v2 = value := by rw [tripleValue_eq]; omega
  rw [← htriple] at hvalue
  rw [decodeCodes_of_triple h0 h1 h2 hvalue, htriple]

theorem decodeCodes_trailingDigits (b : Byte) :
    decodeCodes [digitChar b.toNat, digitChar (b.toNat / 45)] = ([b], .success) := by
  have hb := b.isLt
  obtain ⟨v0, h0, hv0⟩ := exists_romValue_digitChar b.toNat
  obtain ⟨v1, h1, hv1⟩ := exists_romValue_digitChar (b.toNat / 45)
  have hpair : pairValue v0 v1 = b.toNat := by rw [pairValue_eq]; omega
  rw [decodeCodes_of_pair h0 h1 (by omega), hpair, BitVec.ofNat_toNat, BitVec.setWidth_eq]

/-- The two bytes of a byte group's value are the group's. -/
theorem emitTriple_units_of_bytes (b0 b1 : Byte) : (emitTriple (b0.toNat * 256 + b1.toNat)).units = [b0, b1] := by
  have hb0 := b0.isLt
  have hb1 := b1.isLt
  have hbytes := tripleHigh_tripleLow_toNat (triple := b0.toNat * 256 + b1.toNat) (by omega)
  have hlow := (tripleLow (b0.toNat * 256 + b1.toNat)).isLt
  rw [emitTriple_units, List.cons.injEq, List.cons.injEq, ← BitVec.toNat_inj, ← BitVec.toNat_inj]
  exact ⟨by omega, by omega, rfl⟩

/-- Decoding an encoding gives the bytes back, group by group. -/
theorem decodeCodes_encodeBytes (bytes : List Byte) : decodeCodes (encodeBytes bytes) = (bytes, .success) := by
  induction bytes using encodeBytes.induct with
  | case1 => rfl
  | case2 b => exact decodeCodes_trailingDigits b
  | case3 b0 b1 rest ih =>
    have hb0 := b0.isLt
    have hb1 := b1.isLt
    rw [encodeBytes, decodeCodes_digits (by omega), emitTriple_units_of_bytes, ih]
    rfl

theorem encodeBytes_pairByte (h0 : romValue c0 = some v0) (h1 : romValue c1 = some v1) (hp : pairValue v0 v1 ≤ 255) :
    encodeBytes [BitVec.ofNat 8 (pairValue v0 v1)] = [c0, c1] := by
  have hv0 := romValue_le h0
  have hv1 := romValue_le h1
  have hvalue := pairValue_eq v0 v1
  rw [encodeBytes, pairByte_toNat hp, digitChar_eq_of_romValue h0 (by omega), digitChar_eq_of_romValue h1 (by omega)]

theorem encodeBytes_emitTriple (h0 : romValue c0 = some v0) (h1 : romValue c1 = some v1) (h : romValue c = some v)
    (ht : tripleValue v0 v1 v ≤ 65535) (rest : List Byte) :
    encodeBytes ((emitTriple (tripleValue v0 v1 v)).units ++ rest) = c0 :: c1 :: c :: encodeBytes rest := by
  have hv0 := romValue_le h0
  have hv1 := romValue_le h1
  have hv := romValue_le h
  have hvalue := tripleValue_eq v0 v1 v
  simp only [emitTriple_units, List.cons_append, List.nil_append, encodeBytes, tripleHigh_tripleLow_toNat ht]
  rw [digitChar_eq_of_romValue h0 (by omega), digitChar_eq_of_romValue h1 (by omega),
    digitChar_eq_of_romValue h (by omega)]

/-- Encoding what a successful decoding delivers gives the codes back, group by group. -/
theorem encodeBytes_decodeCodes (codes : List Byte) (hok : (decodeCodes codes).2 = .success) :
    encodeBytes (decodeCodes codes).1 = codes := by
  induction codes using decodeCodes.induct
  case case1 => rfl
  case case4 c0 c1 v0 v1 h1 h0 pair hp =>
    rw [decodeCodes_of_pair h0 h1 hp, encodeBytes_pairByte h0 h1 hp]
  case case7 c0 c1 c2 rest v0 v1 v2 h2 h1 h0 triple ht ih =>
    have ht' : tripleValue v0 v1 v2 ≤ 65535 := by rwa [tripleValue_eq]
    rw [decodeCodes_of_triple h0 h1 h2 ht'] at hok ⊢
    rw [encodeBytes_emitTriple h0 h1 h2 ht', ih hok]
  case case5 c0 c1 v0 v1 h1 h0 pair hp =>
    rw [decodeCodes_of_pairTooLarge h0 h1 (Nat.lt_of_not_le hp)] at hok
    cases hok
  case case8 c0 c1 c2 rest v0 v1 v2 h2 h1 h0 triple ht =>
    have ht' : 65535 < tripleValue v0 v1 v2 := by rw [tripleValue_eq]; exact Nat.lt_of_not_le ht
    rw [decodeCodes_of_tripleTooLarge h0 h1 h2 ht'] at hok
    cases hok
  case case2 h | case3 h | case6 h | case9 h => simp [decodeCodes, h] at hok

/-! ### The statements -/

/-- Settles O40: by induction on the codes the run ends as `Decode` says, and no move of it acts on the encoder. -/
theorem decodeStreamOutcome : Obligations.DecodeStreamOutcome :=
  ⟨rfl, fun s lenIn codes => ⟨delivered_decStream s lenIn codes, streamEnd_decStream s lenIn codes,
    enc_endState_decStream s lenIn codes, (outcome_decStream s lenIn codes).2⟩⟩

/-- Settles O41: the runs deliver what `Encode` and `Decode` say, and these are inverse to each other. -/
theorem streamRoundTrip : Obligations.StreamRoundTrip := by
  intro s s' lenIn encodeRun decodeRun
  have hencode : ∀ bytes, delivered (encodeRun bytes) = encodeBytes bytes :=
    fun bytes => (delivered_encStream s lenIn bytes).1
  have hdecode : ∀ codes, delivered (decodeRun codes) = (decodeCodes codes).1 := delivered_decStream s' lenIn
  have hok : ∀ codes, AllOk (decodeRun codes) ↔ (decodeCodes codes).2 = .success := allOk_decStream_iff s' lenIn
  simp only [hencode, hdecode, hok, decodeCodes_encodeBytes]
  exact ⟨fun _ => ⟨trivial, trivial⟩, encodeBytes_decodeCodes⟩

end Sys2Proof.Machine
end

section
/-! SUPPORT. The size calculator (spec 43_size_calc.md): its formulas as numbers that fit the result field, its two commands
and its output ports, and what the sizes say of the streams. -/

namespace Sys2Proof.Machine

open Sys2Proof.Safety

variable {s : State} {n : Nat}

/-! ### The formulas (R170, R171, R173) -/

/-- The case split on `n % 3` rounds the quotient up. -/
theorem decMaxSize_eq (n : Nat) : decMaxSize n = (n + 2) / 3 * 2 := by
  unfold decMaxSize
  split <;> omega

/-- The bound of a 32-bit length operand fits the result field. -/
theorem decMaxSize_le (len : Length) : decMaxSize len.toNat ≤ 2863311530 := by
  have hlen := len.isLt
  rw [decMaxSize_eq]
  omega

theorem decMaxSize_toNat (len : Length) : (BitVec.ofNat 32 (decMaxSize len.toNat)).toNat = decMaxSize len.toNat := by
  have hsize := decMaxSize_le len
  exact (BitVec.toNat_ofNat _ 32).trans (Nat.mod_eq_of_lt (by omega))

/-- An accepted length's size fits the result field: it is what SIZE_ENC answers. -/
theorem encExactSize_toNat (h : lenOperand s ≤ encThreshold s.config.maxLen) :
    (BitVec.ofNat 32 (encExactSize (lenOperand s))).toNat = encExactSize (lenOperand s) :=
  (Effect.encSized s h).sizeEnc_result rfl

/-- The threshold is even, so one byte above it adds the two characters of a trailing byte. -/
theorem encExactSize_threshold_succ (maxLen : Nat) :
    encExactSize (encThreshold maxLen + 1) = maxLen / 3 * 3 + 2 := by
  unfold encExactSize encThreshold
  omega

/-- A stream whose length is an encoded size is not of length 1 mod 3, and its length determines the number of bytes. -/
theorem eq_of_encExactSize {len : Nat} (h : len = encExactSize n) :
    len % 3 ≠ 1 ∧ n = len / 3 * 2 + (if len % 3 = 2 then 1 else 0) := by
  unfold encExactSize at h
  split <;> omega

/-! ### The output ports (R172) -/

theorem portEncOvf_iff (s : State) : portEncOvf s = true ↔ encThreshold s.config.maxLen < lenOperand s :=
  decide_eq_true_iff

theorem portEncOvf_eq_false_iff (s : State) : portEncOvf s = false ↔ lenOperand s ≤ encThreshold s.config.maxLen := by
  rw [← Bool.not_eq_true, portEncOvf_iff, Nat.not_lt]

theorem portEncSize_of_ovf (h : portEncOvf s = true) : portEncSize s = 0 := if_pos h

theorem portEncSize_of_not_ovf (h : portEncOvf s = false) :
    portEncSize s = BitVec.ofNat 32 (encExactSize (lenOperand s)) := if_neg (Bool.not_eq_true _ ▸ h)

/-! ### The decoded length (R174) -/

/-- What a successful decoding delivers encodes to the codes, so their number is an encoded size. -/
theorem length_eq_encExactSize_of_decodeCodes {codes : List Byte} (hok : (decodeCodes codes).2 = .success) :
    codes.length = encExactSize (decodeCodes codes).1.length := by
  rw [← encodeBytes_length, encodeBytes_decodeCodes codes hok]

/-! ### The statements -/

/-- Settles O46: an accepted length is the length of the stream's encoding under the size formula, and a successful
decoding is undone by encoding, which fixes its length too. -/
theorem sizesBoundTheStreams : Obligations.SizesBoundTheStreams := by
  refine ⟨fun s q lenIn bytes hlen hle => ?_, fun s q lenIn codes hlen hok => ?_⟩
  · have haccepted : lenOperand q ≤ encThreshold q.config.maxLen := hlen.trans_le hle
    refine ⟨_, (Effect.encSized q haccepted).exec_eq, (encExactSize_toNat haccepted).trans ?_⟩
    rw [(delivered_encStream s lenIn bytes).1, encodeBytes_length, lenOperand, hlen]
  · rw [allOk_decStream_iff] at hok
    rw [delivered_decStream]
    obtain ⟨hmod, hout⟩ := eq_of_encExactSize (length_eq_encExactSize_of_decodeCodes hok)
    have hsize : (BitVec.ofNat 32 (decMaxSize (lenOperand q))).toNat = (codes.length + 2) / 3 * 2 := by
      rw [lenOperand, decMaxSize_toNat, decMaxSize_eq, hlen]
    refine ⟨hmod, _, (Effect.decSized q).exec_eq, hout, fun hzero => hsize.trans ?_, fun htwo => hsize.trans ?_⟩
    · rw [if_neg (by omega)] at hout
      omega
    · rw [if_pos htwo] at hout
      omega

/-- Settles O43: SIZE_ENC acts in one of two ways, by whether the length is above the threshold. -/
theorem sizeEncResult : Obligations.SizeEncResult := by
  refine ⟨decode_encode .sizeEnc, fun s => ⟨fun hle => ?_, fun hlt => ?_, fun hstd => ?_⟩⟩
  · exact ⟨_, (Effect.encSized s hle).exec_eq, encExactSize_toNat hle⟩
  · exact (Effect.encSizeTooLarge s hlt).exec_eq
  · have hthreshold : encThreshold s.config.maxLen = 1431655764 := by rw [hstd]; rfl
    have haccepted : ∀ k, lenOperand s = k → k ≤ 1431655764 →
        ∃ t, exec .sizeEnc s = .next t ∧ t.rsp.result = BitVec.ofNat 32 (encExactSize k) := by
      rintro k rfl hk
      exact ⟨_, (Effect.encSized s (hthreshold ▸ hk)).exec_eq, rfl⟩
    refine ⟨hthreshold, fun hn => haccepted _ hn (Nat.le_refl _), fun hn => ?_, fun hn => ?_⟩
    · have habove : encThreshold s.config.maxLen < lenOperand s := by rw [hthreshold]; exact hn
      exact ⟨_, (Effect.encSizeTooLarge s habove).exec_eq, rfl⟩
    · have hsmall : ∀ k ∈ [0, 1, 2, 3, 7], k ≤ 1431655764 ∧
          (k, BitVec.ofNat 32 (encExactSize k)) ∈ [(0, 0#32), (1, 2), (2, 3), (3, 5), (7, 11)] := by decide
      obtain ⟨hk, hpair⟩ := hsmall _ hn
      obtain ⟨t, ht, hresult⟩ := haccepted _ rfl hk
      exact ⟨t, ht, hresult ▸ hpair⟩

/-- Settles O42: SIZE_DEC_MAX acts in one way, and its bound fits the result field. -/
theorem sizeDecMaxResult : Obligations.SizeDecMaxResult := by
  refine ⟨decode_encode .sizeDecMax, fun s => ⟨_, (Effect.decSized s).exec_eq, ?_⟩, by decide⟩
  rw [lenOperand, decMaxSize_toNat]
  exact ⟨decMaxSize_eq _, decMaxSize_le _⟩

/-- Settles O44: the ports compute the formulas of the two commands, and `enc_ovf` the condition by which SIZE_ENC acts. -/
theorem combinatorialOutputsAgree : Obligations.CombinatorialOutputsAgree := by
  refine fun s => ⟨(decMaxSize_toNat _).trans (decMaxSize_eq _), portEncOvf_iff s, portEncSize_of_ovf, fun hfit => ?_,
    fun t ht => ?_, fun t ht => ?_⟩
  · rw [portEncSize_of_not_ovf hfit]
    exact encExactSize_toNat ((portEncOvf_eq_false_iff s).mp hfit)
  · cases effect_of_exec ht
    rfl
  · cases effect_of_exec ht
    case encSized hle =>
      have hfit := (portEncOvf_eq_false_iff s).mpr hle
      exact ⟨(portEncSize_of_not_ovf hfit).symm, by simp [hfit]⟩
    case encSizeTooLarge hlt =>
      have hovf := (portEncOvf_iff s).mpr hlt
      exact ⟨(portEncSize_of_ovf hovf).symm, by simp [hovf]⟩

/-- Settles O45: an accepted length is at most the threshold, and the size just above the threshold is known exactly. -/
theorem sizeEncStaysWithinMaxLen : Obligations.SizeEncStaysWithinMaxLen := by
  refine ⟨fun s t ht hok => ?_, fun c => ?_, by decide⟩
  · cases effect_of_exec ht
    case encSized hle => exact (encExactSize_toNat hle).trans_le (encExactSize_le hle)
    case encSizeTooLarge => cases hok
  · rw [encExactSize_threshold_succ]
    omega

end Sys2Proof.Machine
end

section
/-! SUPPORT. Exceptions (spec 60_exceptions.md R193, R195, R197): what an illegal word leaves for the next command, what a
failing decoder command leaves behind, and when the input counts as truncated. -/

namespace Sys2Proof.Machine

open Sys2Proof.Safety

variable {i : Instr} {s s' t : State} {p : Ports} {rest : List Ports}

/-! ### Illegal words (R195) -/

/-- Two states that face the same moves and differ at most in the levels and the response of the step before take the same
step: it overwrites both. -/
theorem step_congr_of_sameCore (hp : s.pending = p :: rest) (hp' : s'.pending = p :: rest) (hcore : SameCore s s') :
    step s' = step s := by
  obtain ⟨t, hs, hports, hpending, -⟩ := step_next_of_pending_cons hp
  obtain ⟨t', hs', hports', hpending', -⟩ := step_next_of_pending_cons hp'
  obtain ⟨⟨henc, hdec, hconfig⟩, hrsp⟩ := step_congr_of_agreeAtSize hp hp' hs hs' ⟨rfl, rfl, fun _ _ => rfl⟩ hcore
  rw [hs, hs', Host.Outcome.next.injEq, State.mk.injEq]
  exact ⟨henc, hdec, hports'.trans hports.symm, hrsp, hpending'.trans hpending.symm, hconfig⟩

/-! ### Failures of the decoder (R193, R197) -/

/-- Both statuses are answered by the decoder's failure entry alone, on a command that feeds the decoder. -/
theorem Effect.eq_failDecoder (h : Effect i s t)
    (hst : t.rsp.status = .malformedEncoding ∨ t.rsp.status = .truncatedInput) :
    feedsDecoder i = true ∧ t = failDecoder t.rsp.status t.rsp.detail s := by
  cases h
  case notInAlphabet | tripleTooLarge | truncated | pairTooLarge => exact ⟨rfl, rfl⟩
  all_goals simp at hst

theorem Effect.truncated_iff (h : Effect i s t) :
    t.rsp.status = .truncatedInput ↔ i = .decFinalize ∧ s.dec.fail = false ∧ s.dec.count = .one := by
  constructor
  · intro hst
    cases h
    case truncated hf hc => exact ⟨rfl, hf, hc⟩
    all_goals simp at hst
  · rintro ⟨rfl, hf, hc⟩
    rw [h.unique (.truncated s hf hc)]
    rfl

/-- `Decode` has no failure but those two statuses, and the truncated one has detail 0; by its own recursion. -/
theorem decodeCodes_end (codes : List Byte) :
    (decodeCodes codes).2 = .success ∨ (decodeCodes codes).2 = .failure .truncatedInput 0 ∨
      ∃ d, (decodeCodes codes).2 = .failure .malformedEncoding d := by
  induction codes using decodeCodes.induct
  case case1 => exact .inl rfl
  case case2 c0 v0 h0 => simp [decodeCodes, h0]
  case case3 c0 h0 => simp [decodeCodes, h0]
  case case4 c0 c1 v0 v1 h1 h0 pair hp =>
    rw [decodeCodes_of_pair h0 h1 hp]
    exact .inl rfl
  case case5 c0 c1 v0 v1 h1 h0 pair hp =>
    rw [decodeCodes_of_pairTooLarge h0 h1 (Nat.lt_of_not_le hp)]
    exact .inr (.inr ⟨3, rfl⟩)
  case case7 c0 c1 c2 rest v0 v1 v2 h2 h1 h0 triple ht ih =>
    have ht' : tripleValue v0 v1 v2 ≤ 65535 := by rwa [tripleValue_eq]
    rwa [decodeCodes_of_triple h0 h1 h2 ht']
  case case8 c0 c1 c2 rest v0 v1 v2 h2 h1 h0 triple ht =>
    have ht' : 65535 < tripleValue v0 v1 v2 := by rw [tripleValue_eq]; exact Nat.lt_of_not_le ht
    rw [decodeCodes_of_tripleTooLarge h0 h1 h2 ht']
    exact .inr (.inr ⟨2, rfl⟩)
  case case6 | case9 => simp [decodeCodes]

/-- A successful decoding never has one code left over. -/
theorem decodeCodes_ne_success {codes : List Byte} (hlen : codes.length % 3 = 1) : (decodeCodes codes).2 ≠ .success :=
  fun hok => (eq_of_encExactSize (length_eq_encExactSize_of_decodeCodes hok)).1 hlen

/-! ### The statements -/

/-- Settles O9: the step on the illegal word changes nothing that the next step reads. -/
theorem illegalWordLeavesNextCommand : Obligations.IllegalWordLeavesNextCommand := by
  intro s w e lenIn p rest hd
  obtain ⟨t, ht, -⟩ := step_next_of_pending_cons (s := s.facing (p :: rest)) rfl
  exact ⟨_, t, step_of_illegal rfl rfl hd, rfl, rfl, rfl,
    (step_congr_of_sameCore (s := s.facing (p :: rest)) rfl rfl ⟨rfl, rfl, rfl⟩).trans ht, ht⟩

/-- Settles O32: the two statuses come from the decoder's failure entry, which is the latch and the response. -/
theorem failureEntryIsPrecise : Obligations.FailureEntryIsPrecise := by
  intro i s t hexec hst
  obtain ⟨hi, ht⟩ := (effect_of_exec hexec).eq_failDecoder hst
  exact ⟨(feedsDecoder_iff.mp hi).symm, ht⟩

/-- Settles O37: DEC_FINALIZE on one value is the one way to answer TRUNCATED_INPUT; a stream of length 1 mod 3 cannot
succeed, so unless a code or a group is malformed it ends with one value left. -/
theorem truncatedOnlyAtFinalize : Obligations.TruncatedOnlyAtFinalize := by
  refine ⟨fun i s t h => (effect_of_exec h).truncated_iff, ?_⟩
  intro s lenIn codes hlen stream hmalformed
  have hstream : stream = (decodeCodes codes).2 := streamEnd_decStream s lenIn codes
  rw [hstream] at hmalformed ⊢
  rcases decodeCodes_end codes with hok | htruncated | ⟨d, hd⟩
  · exact absurd hok (decodeCodes_ne_success hlen)
  · exact htruncated
  · exact absurd hd (hmalformed d)

end Sys2Proof.Machine
end


section
/-! SUPPORT. The reset sources (spec 70_reset_and_hazards.md R220, R221): the step under `rst`, and the two reset commands. -/

namespace Sys2Proof.Machine

variable {s : State} {p : Ports} {rest : List Ports}

/-- Under `rst` the command word of the move is not even decoded (log entry 7). -/
theorem step_of_rst (hp : s.pending = p :: rest) (hr : p.rst = true) :
    step s = .next (assertRst { s with ports := p, pending := rest }) := by
  simp [step_of_pending_cons hp, runPorts, hr]

/-- Settles O49: `rst` is decided before the word is decoded, the move after it is taken as from any state, and each reset
command acts in one way. -/
theorem resetSources : Obligations.ResetSources := by
  refine ⟨fun s p rest hp hr => step_of_rst hp hr, fun s p q rest i hp hr hq hd => ?_, ok_word,
    fun s => (Effect.encReset s).exec_eq, fun s => (Effect.decReset s).exec_eq⟩
  exact ⟨_, step_of_rst hp hr, stepRunsDecodedCommand _ q rest i rfl hq hd⟩

end Sys2Proof.Machine
end

section
/-! SUPPORT. Words as the host and the ports carry them (spec 30_encoding.md R71, R77): the word of a command, the placement
of one, and the fields of the response word. -/

namespace Sys2Proof

/-- A word that decodes to a command is that command's word: both have the command's fields. -/
theorem encode_of_decode {w : Word} {i : Instr} (h : decode w = .ok i) : encode i = w :=
  fieldsOf_inj.mp ((decode_eq_ok_iff.mp (decode_encode i)).trans (decode_eq_ok_iff.mp h).symm)

theorem tableWord_toNat (w : Word) : tableWord 16 w.toNat = w := by
  rw [tableWord, Nat.mod_eq_of_lt w.isLt, BitVec.ofNat_toNat, BitVec.setWidth_eq]

theorem decodeTableWord_encode (i : Instr) : decodeTableWord 16 (encode i).toNat = some i := by
  rw [decodeTableWord, if_pos le_rfl, tableWord_toNat, decode_encode]
  rfl

end Sys2Proof

namespace Sys2Proof.Machine

variable {r r' : Response}

theorem withFetchWord_encode (s : State) (i : Instr) :
    s.withFetchWord 16 (encode i).toNat = placeWord (encode i) s := by
  rw [State.withFetchWord, tableWord_toNat]

/-! ### The response word (R77) -/

theorem Status.code_injective : Function.Injective Status.code := by
  intro st st'
  cases st <;> cases st' <;> decide

/-- Each field of the response word stands above the fields to its right, so skipping those leaves it. -/
theorem word_fields (r : Response) :
    r.word.extractLsb' 0 3 = r.status.code ∧ r.word.extractLsb' 3 2 = r.detail ∧ r.word.extractLsb' 5 2 = r.n ∧
    r.word.getLsbD 7 = r.hit ∧ r.word.extractLsb' 8 8 = r.out0 ∧ r.word.extractLsb' 16 8 = r.out1 ∧
    r.word.extractLsb' 24 8 = r.out2 ∧ r.word.extractLsb' 32 32 = r.result := by
  unfold Response.word
  refine ⟨?_, ?_, ?_, ?_, ?_, ?_, ?_, ?_⟩
  case refine_4 =>
    simp only [BitVec.getLsbD_append]
    simp
  all_goals
    simp only [BitVec.extractLsb'_append_eq_of_le, BitVec.extractLsb'_append_eq_right, BitVec.extractLsb'_eq_self,
      Nat.reduceLeDiff, Nat.reduceSub]

theorem eq_of_word_eq (h : r.word = r'.word) : r = r' := by
  obtain ⟨hstatus, hdetail, hn, hhit, hout0, hout1, hout2, hresult⟩ := word_fields r
  obtain ⟨hstatus', hdetail', hn', hhit', hout0', hout1', hout2', hresult'⟩ := word_fields r'
  rw [← h] at hstatus' hdetail' hn' hhit' hout0' hout1' hout2' hresult'
  obtain ⟨⟩ := r
  obtain ⟨⟩ := r'
  rw [Response.mk.injEq]
  exact ⟨Status.code_injective (hstatus.symm.trans hstatus'), hdetail.symm.trans hdetail', hn.symm.trans hn',
    hhit.symm.trans hhit', hout0.symm.trans hout0', hout1.symm.trans hout1', hout2.symm.trans hout2',
    hresult.symm.trans hresult'⟩

/-! ### The statements -/

/-- Settles O1: the decoder and the encoder relate a word and a command by the same three fields, which are all of a word. -/
theorem decodeAndEncodeAgree : Obligations.DecodeAndEncodeAgree :=
  ⟨decode_encode, fun _ _ => encode_of_decode⟩

/-- Settles O4: each word is the encoding of its command. -/
theorem specWordsDecode : Obligations.SpecWordsDecode :=
  ⟨decode_encode (.romValueOf 0x3A), decode_encode (.romCharOf 44), decode_encode .encReset,
    decode_encode (.encConsume 0x41), decode_encode .encFinalize, decode_encode .decReset,
    decode_encode (.decConsume 0x20), decode_encode .decFinalize, decode_encode .sizeDecMax, decode_encode .sizeEnc⟩

/-- Settles O6: the placed word is the host's next move, and it decodes to the command. -/
theorem placedWordRunsNext : Obligations.PlacedWordRunsNext := by
  refine fun s i => ⟨?_, decodeTableWord_encode i⟩
  rw [withFetchWord_encode]
  exact stepRunsDecodedCommand _ _ _ i (placeWord_pending s _) rfl (decode_encode i)

/-- Settles O10: the fields of the word determine the response. -/
theorem responseWordLayout : Obligations.ResponseWordLayout :=
  ⟨fun s => word_fields s.rsp, fun _ _ => eq_of_word_eq⟩

end Sys2Proof.Machine
end

section
/-! SUPPORT. The invariants of the reachable states (spec 10_state.md R33, 60_exceptions.md R191, R197): an invariant of the
registers that holds at reset and that every way for a command to act keeps is kept by every step. -/

namespace Sys2Proof.Machine

open Sys2Proof.Safety

variable {i : Instr} {s t : State}

/-- `rst` leaves the reset registers, an illegal word leaves the registers alone, and the rest are commands. -/
theorem step_keeps {P : EncRegs → DecRegs → Prop} (hreset : P .reset .reset)
    (heffect : ∀ {i : Instr} {s t : State}, Effect i s t → P s.enc s.dec → P t.enc t.dec)
    (hs : step s = .next t) (h : P s.enc s.dec) : P t.enc t.dec := by
  obtain ⟨p, rest, hp, -⟩ := step_next_cases hs
  rcases step_effect hp hs with ⟨-, rfl⟩ | ⟨-, i, -, heff⟩ | ⟨-, e, -, rfl⟩
  · exact hreset
  · exact heffect heff h
  · exact h

/-! ### The legal registers (R33) -/

theorem encLegal_reset : EncLegal .reset := fun _ => rfl

theorem decLegal_reset : DecLegal .reset := by decide

/-- A command stores alphabet values, clears the entries it leaves unused, and latches status 1 or 2. -/
theorem Effect.decLegal (h : Effect i s t) (hs : DecLegal s.dec) : DecLegal t.dec := by
  obtain ⟨hv0, hv1, hzero, hone, hclear, hlatched⟩ := hs
  cases h
  case decReset => exact decLegal_reset
  case firstHeld hv hf hc =>
    exact ⟨romValue_le hv, hv1, nofun, fun _ => hone (by simp [hc]), hclear, hlatched⟩
  case secondHeld hv hf hc => exact ⟨hv0, romValue_le hv, nofun, fun h => absurd rfl h, hclear, hlatched⟩
  case tripleDecoded | pairDecoded =>
    exact ⟨Nat.zero_le _, Nat.zero_le _, fun _ => rfl, fun _ => rfl, hclear, hlatched⟩
  case notInAlphabet | tripleTooLarge | pairTooLarge => exact ⟨hv0, hv1, hzero, hone, nofun, fun _ => .inl rfl⟩
  case truncated => exact ⟨hv0, hv1, hzero, hone, nofun, fun _ => .inr rfl⟩
  all_goals exact ⟨hv0, hv1, hzero, hone, hclear, hlatched⟩

/-- The legal registers of a decoder that holds nothing and has not failed are the reset ones. -/
theorem eq_reset_of_decLegal {d : DecRegs} (hd : DecLegal d) (hf : d.fail = false) (hc : d.count = .zero) :
    d = .reset := by
  obtain ⟨-, -, hzero, hone, hclear, -⟩ := hd
  have hv0 := hzero hc
  have hv1 := hone (by simp [hc])
  obtain ⟨hstatus, hdetail⟩ := hclear hf
  obtain ⟨count, v0, v1, fail, errStatus, errDetail⟩ := d
  subst hf hc hv0 hv1 hstatus hdetail
  rfl

/-! ### The latch (R191, R197) -/

theorem latchExplained_reset : LatchExplained .reset := nofun

/-- Each failure of the decoder latches its own codes over the buffer that caused it, and a command that changes the buffer
of a decoder that has not failed leaves it so. -/
theorem Effect.latchExplained (h : Effect i s t) (hs : LatchExplained s.dec) : LatchExplained t.dec := by
  cases h
  case decReset => exact latchExplained_reset
  case notInAlphabet => exact fun _ => .inl ⟨rfl, rfl⟩
  case tripleTooLarge hc _ => exact fun _ => .inr (.inl ⟨rfl, rfl, hc⟩)
  case pairTooLarge hf hc hp => exact fun _ => .inr (.inr (.inl ⟨rfl, rfl, hc, hp⟩))
  case truncated hf hc => exact fun _ => .inr (.inr (.inr ⟨rfl, rfl, hc⟩))
  case firstHeld hf _ | secondHeld hf _ | tripleDecoded hf _ _ | pairDecoded hf _ _ =>
    exact fun hfail => absurd (hf.symm.trans hfail) Bool.false_ne_true
  all_goals exact hs

/-! ### After a finalize (R225) -/

/-- The decoder's DEC_CONSUME and DEC_FINALIZE fail only by leaving the decoder failed. -/
theorem Effect.fail_of_not_ok (h : Effect i s t) (hi : feedsDecoder i = true) (hfail : t.rsp.status ≠ .ok) :
    t.dec.fail = true := by
  cases h
  case notInAlphabet | tripleTooLarge | pairTooLarge | truncated => rfl
  case consumeFailedBefore hf | finalizeFailedBefore hf => exact hf
  case encSizeTooLarge => cases hi
  all_goals exact absurd rfl hfail

/-! ### The statements -/

/-- Settles O51: the reset registers are legal, whatever the parameters. -/
theorem resetIsLegal : Obligations.ResetIsLegal :=
  fun _ => ⟨encLegal_reset, decLegal_reset⟩

/-- Settles O52: every way for a command to act keeps both transducers' registers legal. -/
theorem stepKeepsLegal : Obligations.StepKeepsLegal :=
  fun _ _ hlegal hs => step_keeps (P := fun e d => EncLegal e ∧ DecLegal d) ⟨encLegal_reset, decLegal_reset⟩
    (fun heff ⟨henc, hdec⟩ => ⟨heff.encLegal henc, heff.decLegal hdec⟩) hs hlegal

/-- Settles O53: every way for a command to act keeps the latch explained. -/
theorem latchAlwaysExplained : Obligations.LatchAlwaysExplained :=
  ⟨latchExplained_reset, fun _ _ h hs =>
    step_keeps (P := fun _ d => LatchExplained d) latchExplained_reset Effect.latchExplained hs h⟩

/-- Settles O54: a finalize that succeeds leaves nothing pending, which only the reset registers do legally; a DEC_FINALIZE
that fails leaves a failed decoder. -/
theorem finalizeLeavesResetState : Obligations.FinalizeLeavesResetState := by
  rintro s ⟨henc, hdec⟩
  obtain ⟨t, ht, heff⟩ := exec_effect .encFinalize s
  obtain ⟨u, hu, heff'⟩ := exec_effect .decFinalize s
  refine ⟨⟨t, ht, eq_empty_of_encLegal (heff.encLegal henc) heff.encFinalize_pend⟩, u, hu, fun hok => ?_,
    fun hfail c => ⟨_, exec_of_failed (heff'.fail_of_not_ok rfl hfail) rfl, rfl⟩⟩
  obtain ⟨hf, hc⟩ := heff'.decFinalize_empty hok
  exact eq_reset_of_decLegal (heff'.decLegal hdec) hf hc

end Sys2Proof.Machine
end

section
/-! SUPPORT. Failures (spec 60_exceptions.md R196, R199, R200; 42_decode_fsm.md R146): what a failing step delivers, which
failure it reports, and how long the decoder reports it. -/

namespace Sys2Proof.Machine

open Sys2Proof.Safety

variable {i : Instr} {s t : State} {p : Ports} {rest : List Ports} {c : Byte} {v : Value} {r : Response} {d : DecRegs}

/-! ### What a failure delivers (R196) -/

/-- A response that carries no unit and no look-up. -/
def Response.DeliversNothing (r : Response) : Prop :=
  r.units = [] ∧ r.n = 0 ∧ r.out0 = 0 ∧ r.out1 = 0 ∧ r.out2 = 0 ∧ r.hit = false

theorem raise_deliversNothing (st : Status) (det : BitVec 2) : (Response.raise st det).DeliversNothing :=
  ⟨rfl, rfl, rfl, rfl, rfl, rfl⟩

theorem failedBefore_deliversNothing (d : DecRegs) : (Response.failedBefore d).DeliversNothing :=
  ⟨rfl, rfl, rfl, rfl, rfl, rfl⟩

theorem Failure.deliversNothing (h : Failure i d r) : r.DeliversNothing := by
  cases h
  case failedBefore => exact failedBefore_deliversNothing d
  all_goals exact raise_deliversNothing _ _

/-- A command that fails is none of the encoder's. -/
theorem Effect.enc_eq_of_not_ok (h : Effect i s t) (hfail : t.rsp.status ≠ .ok) : t.enc = s.enc := by
  cases hi : isEncoder i
  · exact h.enc_eq_of_not_encoder hi
  · exact absurd (h.ok_of_encoder hi).1 hfail

/-! ### Which failure a command reports (R199) -/

theorem Effect.rsp_of_failed (h : Effect i s t) (hf : s.dec.fail = true) (hi : feedsDecoder i = true) :
    t.rsp = .failedBefore s.dec := by
  obtain rfl : reportFailed s = t := by simpa [exec_of_failed hf hi] using h.exec_eq
  rfl

theorem Effect.rsp_of_notInAlphabet (h : Effect (.decConsume c) s t) (hf : s.dec.fail = false)
    (hv : romValue c = none) : t.rsp = .raise .malformedEncoding 1 := by
  rw [h.unique (.notInAlphabet c s hf hv), failDecoder_rsp]

/-- An alphabet code fails exactly when it completes a triple that is too large. -/
theorem Effect.decConsume_ok_or_tripleTooLarge (h : Effect (.decConsume c) s t) (hf : s.dec.fail = false)
    (hv : romValue c = some v) :
    (t.rsp.status = .ok ∧ ¬ (s.dec.count = .two ∧ 65535 < tripleValue s.dec.v0 s.dec.v1 v)) ∨
    (t.rsp = .raise .malformedEncoding 2 ∧ s.dec.count = .two ∧ 65535 < tripleValue s.dec.v0 s.dec.v1 v) := by
  rcases acceptValue_cases v s with ⟨hc, -⟩ | ⟨hc, -⟩ | ⟨hc, -⟩
  · exact .inl ⟨h.unique (.firstHeld c v s hf hv hc) ▸ rfl, by simp [hc]⟩
  · exact .inl ⟨h.unique (.secondHeld c v s hf hv hc) ▸ rfl, by simp [hc]⟩
  · rcases Nat.lt_or_ge 65535 (tripleValue s.dec.v0 s.dec.v1 v) with ht | ht
    · exact .inr ⟨h.unique (.tripleTooLarge c v s hf hv hc ht) ▸ rfl, hc, ht⟩
    · exact .inl ⟨h.unique (.tripleDecoded c v s hf hv hc ht) ▸ rfl, by omega⟩

theorem Effect.decConsume_not_ok_iff (h : Effect (.decConsume c) s t) (hf : s.dec.fail = false)
    (hv : romValue c = some v) :
    t.rsp.status ≠ .ok ↔ s.dec.count = .two ∧ 65535 < tripleValue s.dec.v0 s.dec.v1 v := by
  rcases h.decConsume_ok_or_tripleTooLarge hf hv with ⟨hok, hnot⟩ | ⟨hrsp, htoo⟩
  · simp [hok, hnot]
  · simp [hrsp, htoo]

/-- DEC_FINALIZE's outcomes, by the number of pending values. -/
theorem Effect.decFinalize_status (h : Effect .decFinalize s t) (hf : s.dec.fail = false) :
    (s.dec.count = .zero → t.rsp.status = .ok) ∧ (s.dec.count = .one → t.rsp.status = .truncatedInput) ∧
    (s.dec.count = .two → t.rsp.status = .ok ∨ (t.rsp.status = .malformedEncoding ∧ t.rsp.detail = 3)) := by
  cases h
  case finalizeFailedBefore hf' => simp [hf] at hf'
  case decEndedEmpty hc | truncated hc | pairDecoded hc _ | pairTooLarge hc _ => simp [hc]

/-! ### How long a failure lasts (R200) -/

theorem Effect.dec_eq_of_failed (h : Effect i s t) (hf : s.dec.fail = true) (hi : i ≠ .decReset) : t.dec = s.dec := by
  cases hd : isDecoder i
  · exact h.dec_eq_of_not_decoder hd
  · have hfeeds : feedsDecoder i = true := by
      cases i <;> simp [isDecoder, feedsDecoder] at hd hi ⊢
    obtain rfl : reportFailed s = t := by simpa [exec_of_failed hf hfeeds] using h.exec_eq
    rfl

/-- A move that is none of the ways out of the failed state. -/
abbrev KeepsFailed (p : Ports) : Prop := p.rst = false ∧ decode p.cmd ≠ .ok .decReset

theorem step_dec_eq_of_failed (hf : s.dec.fail = true) (hkeep : KeepsFailed p) (hp : s.pending = p :: rest)
    (hs : step s = .next t) : t.dec = s.dec := by
  obtain ⟨hr, hreset⟩ := hkeep
  rcases step_effect hp hs with ⟨hr', -⟩ | ⟨-, i, hd, heff⟩ | ⟨-, e, -, rfl⟩
  · simp [hr] at hr'
  · exact heff.dec_eq_of_failed hf (by rintro rfl; exact hreset hd)
  · rfl

theorem step_dec_eq_reset (hp : s.pending = p :: rest) (hout : p.rst = true ∨ decode p.cmd = .ok .decReset)
    (hs : step s = .next t) : t.dec = .reset := by
  cases hr : p.rst
  · have hd : decode p.cmd = .ok .decReset := hout.resolve_left (by simp [hr])
    cases effect_of_step hp hr hd hs
    rfl
  · rw [eq_assertRst_of_step hp hr hs]
    rfl

/-- A move's response reports the failure of the registers `d` if the move's command feeds the decoder. -/
abbrev ReportsFailure (d : DecRegs) (pr : Ports × Response) : Prop :=
  ∀ i, decode pr.1.cmd = .ok i → feedsDecoder i = true → pr.2 = .failedBefore d

/-- A run without a way out keeps a failed decoder's registers and its report, by induction on the moves. -/
theorem run_of_failed (moves : List Ports) (s : State) (hp : s.pending = moves) (hf : s.dec.fail = true)
    (hkeep : ∀ p ∈ moves, KeepsFailed p) :
    (endState s).dec = s.dec ∧ ∀ pr ∈ fullTrace s, ReportsFailure s.dec pr := by
  induction moves generalizing s with
  | nil =>
    rw [endState_of_pending_nil hp, fullTrace_of_pending_nil hp]
    exact ⟨rfl, List.forall_mem_nil _⟩
  | cons p rest ih =>
    obtain ⟨hfirst, hrest⟩ := List.forall_mem_cons.mp hkeep
    obtain ⟨t, hs, rfl, ht, -⟩ := step_next_of_pending_cons hp
    have hdec := step_dec_eq_of_failed hf hfirst hp hs
    obtain ⟨hend, hreports⟩ := ih t ht (hdec ▸ hf) hrest
    rw [hdec] at hend hreports
    rw [endState_of_step hp hs ht, fullTrace_of_step hp hs ht, List.forall_mem_cons]
    exact ⟨hend, fun i hd hi => (effect_of_step hp hfirst.1 hd hs).rsp_of_failed hf hi, hreports⟩

/-! ### The group completed last (R146) -/

/-- Two alphabet codes after DEC_RESET are accepted, whatever their values, and the run goes on with both held. -/
theorem run_of_two_codes {c0 c1 : Byte} {v0 v1 : Value} (h0 : romValue c0 = some v0) (h1 : romValue c1 = some v1)
    (s : State) (lenIn : Length) (is : List Instr) :
    ∃ t, t.dec = ⟨.two, v0, v1, false, 0, 0⟩ ∧ t.pending = commandMoves lenIn is ∧
      streamEnd (responses (s.facing (commandMoves lenIn (.decReset :: .decConsume c0 :: .decConsume c1 :: is)))) =
        streamEnd (responses t) := by
  obtain ⟨t0, hreset, hp0, hresponses0, -⟩ := run_of_command (i := .decReset)
    (facing_pending s (commandMoves lenIn (.decReset :: .decConsume c0 :: .decConsume c1 :: is)))
  cases hreset
  obtain ⟨t1, hfirst, hp1, hresponses1, -⟩ := run_of_command hp0
  obtain rfl := hfirst.unique (.firstHeld c0 v0 _ rfl h0 rfl)
  obtain ⟨t2, hsecond, hp2, hresponses2, -⟩ := run_of_command hp1
  obtain rfl := hsecond.unique (.secondHeld c1 v1 _ rfl h1 rfl)
  exact ⟨_, rfl, hp2, by rw [hresponses0, hresponses1, hresponses2]; rfl⟩

/-- A run whose first command fails ends with that failure. -/
theorem streamEnd_of_failing_command {lenIn : Length} {is : List Instr} (hp : s.pending = commandMoves lenIn (i :: is))
    (h : Effect i (s.presenting lenIn i is) t) (hfail : t.rsp.status ≠ .ok) :
    streamEnd (responses s) = .failure t.rsp.status t.rsp.detail := by
  obtain ⟨t', h', -, hresponses, -⟩ := run_of_command hp
  rw [hresponses, h'.unique h, streamEnd, if_neg hfail]

/-! ### The statements -/

/-- Settles O34: the ways out leave the reset registers, and a run without them keeps the failure, by induction on the
moves. -/
theorem failureLastsUntilReset : Obligations.FailureLastsUntilReset := by
  refine ⟨fun _ _ _ _ hp hout hs => step_dec_eq_reset hp hout hs, fun s moves hf hkeep => ?_⟩
  obtain ⟨hend, hreports⟩ := run_of_failed moves (s.facing moves) rfl hf hkeep
  refine ⟨hend, fun pr hpr hcmd => ?_⟩
  rcases hcmd with hd | ⟨c, hd⟩
  · exact hreports pr hpr _ hd rfl
  · exact hreports pr hpr _ hd rfl

/-- Settles O35: the failing steps are those of an illegal word and of a command that fails, and neither delivers. -/
theorem failureDeliversNothing : Obligations.FailureDeliversNothing := by
  intro s t hs hfail
  obtain ⟨p, rest, hp, -⟩ := step_next_cases hs
  rcases step_effect hp hs with ⟨-, rfl⟩ | ⟨-, i, -, heff⟩ | ⟨-, e, -, rfl⟩
  · exact absurd rfl hfail
  · obtain ⟨hunits, hn, hout0, hout1, hout2, hhit⟩ := (heff.ok_or_failure.resolve_left hfail).deliversNothing
    exact ⟨hunits, hn, hout0, hout1, hout2, hhit, heff.enc_eq_of_not_ok hfail, heff.buffer_eq_of_not_ok hfail⟩
  · exact ⟨rfl, rfl, rfl, rfl, rfl, rfl, rfl, rfl, rfl, rfl⟩

/-- Settles O36: the word's legality comes first, then the latch, then the alphabet, then the group. -/
theorem failurePriority : Obligations.FailurePriority := by
  intro s p rest hp hr
  obtain ⟨t, hs, -⟩ := step_next_of_pending_cons hp
  refine ⟨t, hs, fun e hd => ?_, fun c hd => ?_, fun hd => ?_⟩
  · rw [eq_illegalCommand_of_step hp hr hd hs]
    rfl
  · have heff := effect_of_step hp hr hd hs
    refine ⟨fun hf => by rw [heff.rsp_of_failed hf rfl]; rfl,
      fun hf hv => by rw [heff.rsp_of_notInAlphabet hf hv]; exact ⟨rfl, rfl⟩, fun v hf hv => ?_⟩
    rw [← tripleValue_eq]
    refine ⟨heff.decConsume_not_ok_iff hf hv, fun hfail => ?_⟩
    rcases heff.decConsume_ok_or_tripleTooLarge hf hv with ⟨hok, -⟩ | ⟨hrsp, -⟩
    · exact absurd hok hfail
    · rw [hrsp]
      exact ⟨rfl, rfl⟩
  · have heff := effect_of_step hp hr hd hs
    exact ⟨fun hf => by rw [heff.rsp_of_failed hf rfl]; rfl, heff.decFinalize_status⟩

/-- Settles O38: a value that does not complete a group is only stored; in the examples the command after two stored values
completes the group and fails. -/
theorem groupCheckedOnlyWhenComplete : Obligations.GroupCheckedOnlyWhenComplete := by
  refine ⟨fun c v s hf hv hc => ?_, fun s lenIn => ?_⟩
  · cases hcount : s.dec.count with
    | zero => exact ⟨_, (Effect.firstHeld c v s hf hv hcount).exec_eq, rfl, hf⟩
    | one => exact ⟨_, (Effect.secondHeld c v s hf hv hcount).exec_eq, rfl, hf⟩
    | two => exact absurd hcount hc
  · have hG : romValue 0x47 = some 16 := romValue_romChar 16
    have hW : romValue 0x57 = some 32 := romValue_romChar 32
    intro run
    constructor
    · obtain ⟨t, hdec, hp, hend⟩ := run_of_two_codes hG hG s lenIn [.decFinalize]
      refine hend.trans (streamEnd_of_failing_command hp (.pairTooLarge _ ?_ ?_ ?_) nofun) <;>
        rw [presenting_dec, hdec]
      decide
    · obtain ⟨t, hdec, hp, hend⟩ := run_of_two_codes hG hG s lenIn [.decConsume 0x57]
      refine hend.trans (streamEnd_of_failing_command hp (.tripleTooLarge _ 32 _ ?_ hW ?_ ?_) nofun) <;>
        rw [presenting_dec, hdec]
      decide

end Sys2Proof.Machine
end

section
/-! SUPPORT. The host's characters and the assembler (spec 92_eei_decisions.md D3; 30_encoding.md R82, R83). -/

namespace Sys2Proof.Machine

open Sys2Proof.Safety

variable {c : Char} {code u : Byte} {cs rest : List Char} {us : List Byte}

/-! ### The host's characters (D3) -/

theorem toNat_ofNat_of_narrow (h : c.toNat < 256) : (BitVec.ofNat 8 c.toNat).toNat = c.toNat := by
  rw [BitVec.toNat_ofNat, Nat.mod_eq_of_lt h]

theorem hostCharCode_toNat (h : c.toNat < 256) : (hostCharCode c).toNat = c.toNat := by
  rw [hostCharCode, if_pos h, toNat_ofNat_of_narrow h]

theorem romValue_hostCharCode (h : 256 ≤ c.toNat) : romValue (hostCharCode c) = none := by
  rw [hostCharCode, if_neg (Nat.not_lt.mpr h)]
  exact romValue_eq_none_of_bounds (by decide)

theorem romValue_digitChar_ne_none (value : Nat) : romValue (digitChar value) ≠ none := by
  rw [digitChar_eq_romChar, romValue_romChar]
  exact nofun

/-- `Encode` uses alphabet codes only. -/
theorem romValue_ne_none_of_mem_encodeBytes (bytes : List Byte) :
    ∀ code ∈ encodeBytes bytes, romValue code ≠ none := by
  induction bytes using encodeBytes.induct with
  | case1 => exact List.forall_mem_nil _
  | case2 b => simp [encodeBytes, romValue_digitChar_ne_none]
  | case3 b0 b1 rest ih => simpa [encodeBytes, romValue_digitChar_ne_none] using ih

/-- The codes that `Decode` accepts are the encoding of what it delivers, so all of them are in the alphabet. -/
theorem decodeCodes_ne_success_of_miss {codes : List Byte} (hmem : code ∈ codes) (hmiss : romValue code = none) :
    (decodeCodes codes).2 ≠ .success := by
  intro hok
  rw [← encodeBytes_decodeCodes codes hok] at hmem
  exact romValue_ne_none_of_mem_encodeBytes _ code hmem hmiss

/-! ### Lines (R82)

A mnemonic is read up to the space after it, and the mnemonic's reader gets the rest of the line. -/

theorem assembleLine_decConsume (operand : List Char) :
    assembleLine ("DEC_CONSUME ".toList ++ operand) = dataLine .decConsume (skipBlanks operand) := rfl

theorem assembleLine_encStream (operand : List Char) :
    assembleLine ("ENC_STREAM ".toList ++ operand) = streamLine encStream true (skipBlanks operand) := rfl

theorem assembleLine_decStream (operand : List Char) :
    assembleLine ("DEC_STREAM ".toList ++ operand) = streamLine decStream false (skipBlanks operand) := rfl

theorem skipBlanks_cons_of_not_blank (h : isBlank c = false) : skipBlanks (c :: cs) = c :: cs := by
  simp [skipBlanks, h]

theorem dataLine_of_dataUnit {command : Byte → Instr} (h : dataUnit cs = .ok (u, [])) :
    dataLine command cs = .ok [⟨command u, none⟩] := by
  rw [dataLine, h]
  rfl

theorem streamLine_of_streamUnits {stream : List Byte → List Instr} {unitsAllowed : Bool}
    (h : streamUnits unitsAllowed cs = .ok (us, [])) :
    streamLine stream unitsAllowed cs = .ok ((stream us).map fun i => ⟨i, none⟩) := by
  rw [streamLine, h]
  rfl

theorem spellsUnit_quoted (h : c.toNat < 256) : SpellsUnit ['\'', c, '\''] (BitVec.ofNat 8 c.toNat) :=
  .inl ⟨c, (toNat_ofNat_of_narrow h).symm, rfl⟩

theorem dataUnit_quoted (h : c.toNat < 256) : dataUnit ['\'', c, '\''] = .ok (BitVec.ofNat 8 c.toNat, []) :=
  dataUnit_spelled (spellsUnit_quoted h) (.inl rfl)

/-! ### Lists of units (R83) -/

/-- The units' texts, separated by a comma and a space. -/
def listText (units : List (List Char × Byte)) : List Char := [',', ' '].intercalate (units.map Prod.fst)

theorem listText_singleton (unit : List Char × Byte) : listText [unit] = unit.1 := by
  simp [listText]

theorem listText_cons_cons (unit unit' : List Char × Byte) (units : List (List Char × Byte)) :
    listText (unit :: unit' :: units) = unit.1 ++ ',' :: ' ' :: listText (unit' :: units) := by
  simp [listText, List.intercalate]

/-- A list of units begins neither with a blank nor with a quotation mark. -/
theorem listText_head {unit : List Char × Byte} (h : SpellsUnit unit.1 unit.2) (units : List (List Char × Byte)) :
    ∃ c cs, listText (unit :: units) = c :: cs ∧ isBlank c = false ∧ c ≠ '"' := by
  obtain ⟨c, cs, htext, hblank, hquote⟩ := SpellsUnit_head h
  cases units with
  | nil => exact ⟨c, cs, by rw [listText_singleton, htext], hblank, hquote⟩
  | cons unit' units => exact ⟨c, _, by rw [listText_cons_cons, htext, List.cons_append], hblank, hquote⟩

theorem skipBlanks_listText {unit : List Char × Byte} (h : SpellsUnit unit.1 unit.2) (units : List (List Char × Byte)) :
    skipBlanks (listText (unit :: units)) = listText (unit :: units) := by
  obtain ⟨c, cs, htext, hblank, -⟩ := listText_head h units
  rw [htext, skipBlanks_cons_of_not_blank hblank]

/-- The fuel that `streamUnits` gives `unitList` covers every unit, since each has a character. -/
theorem length_le_length_listText (units : List (List Char × Byte)) (h : ∀ unit ∈ units, SpellsUnit unit.1 unit.2) :
    units.length ≤ (listText units).length := by
  induction units with
  | nil => exact Nat.zero_le _
  | cons unit units ih =>
    obtain ⟨hunit, hunits⟩ := List.forall_mem_cons.mp h
    obtain ⟨c, cs, htext, -⟩ := SpellsUnit_head hunit
    cases units with
    | nil => simp [listText_singleton, htext]
    | cons unit' units =>
      have := ih hunits
      simp only [listText_cons_cons, List.length_append, List.length_cons] at this ⊢
      omega

theorem unitList_last {fuel : Nat} (h : dataUnit (skipBlanks cs) = .ok (u, [])) :
    unitList (fuel + 1) cs = .ok ([u], []) := by
  simp only [unitList, h]
  rfl

theorem unitList_more {fuel : Nat} {more : List Char} (h : dataUnit (skipBlanks cs) = .ok (u, ',' :: more))
    (hmore : unitList fuel more = .ok (us, rest)) : unitList (fuel + 1) cs = .ok (u :: us, rest) := by
  simp [unitList, h, skipBlanks_cons_of_not_blank, isBlank, hmore, Except.map]

/-- A list of spelled units is read to its end, by induction on the units; blanks may stand before it. -/
theorem unitList_listText (units : List (List Char × Byte)) (fuel : Nat) (cs : List Char) (hne : units ≠ [])
    (h : ∀ unit ∈ units, SpellsUnit unit.1 unit.2) (hfuel : units.length ≤ fuel)
    (hcs : skipBlanks cs = listText units) : unitList fuel cs = .ok (units.map Prod.snd, []) := by
  induction units generalizing fuel cs with
  | nil => exact absurd rfl hne
  | cons unit units ih =>
    obtain ⟨hunit, hunits⟩ := List.forall_mem_cons.mp h
    obtain ⟨fuel, rfl⟩ := Nat.exists_eq_add_one_of_ne_zero (Nat.ne_of_gt (Nat.lt_of_lt_of_le (Nat.succ_pos _) hfuel))
    cases units with
    | nil =>
      refine unitList_last ?_
      rw [hcs, listText_singleton, ← List.append_nil unit.1]
      exact dataUnit_spelled hunit (.inl rfl)
    | cons unit' units =>
      refine unitList_more (more := ' ' :: listText (unit' :: units)) ?_
        (ih fuel _ (List.cons_ne_nil _ _) hunits (Nat.le_of_succ_le_succ hfuel) ?_)
      · rw [hcs, listText_cons_cons]
        exact dataUnit_spelled hunit (.inr ⟨_, rfl⟩)
      · exact skipBlanks_listText (List.forall_mem_cons.mp hunits).1 units

theorem streamUnits_listText {units : List (List Char × Byte)} (hne : units ≠ [])
    (h : ∀ unit ∈ units, SpellsUnit unit.1 unit.2) :
    streamUnits true (listText units) = .ok (units.map Prod.snd, []) := by
  obtain ⟨unit, units, rfl⟩ := List.exists_cons_of_ne_nil hne
  have hunit := (List.forall_mem_cons.mp h).1
  have hread := unitList_listText _ _ _ hne h (length_le_length_listText _ h) (skipBlanks_listText hunit units)
  obtain ⟨c, cs, htext, -, hquote⟩ := listText_head hunit units
  rw [htext] at hread ⊢
  unfold streamUnits
  split
  next heq => exact absurd (List.cons.inj heq).1 hquote
  next => exact hread

/-! ### Quoted texts (R83) -/

/-- A text is read up to the first quotation mark, by induction on its characters. -/
theorem quotedText_append (text : List Char) (h : ∀ c ∈ text, c.toNat < 256 ∧ c ≠ '"') :
    quotedText (text ++ ['"']) = .ok (text.map fun c => BitVec.ofNat 8 c.toNat, []) := by
  induction text with
  | nil => rfl
  | cons c text ih =>
    obtain ⟨⟨hc, hquote⟩, htext⟩ := List.forall_mem_cons.mp h
    simp [quotedText, charUnit, hc, hquote, ih htext]

/-! ### The statements -/

/-- Settles O55: a stream with a wide character has a code that misses, and `Decode` accepts no such code. -/
theorem wideCharactersMiss : Obligations.WideCharactersMiss := by
  refine ⟨fun c => hostCharCode_toNat, fun c => romValue_hostCharCode, fun s lenIn chars => ?_⟩
  rintro ⟨c, hmem, hwide⟩
  rw [decStreamOfChars, allOk_decStream_iff]
  exact decodeCodes_ne_success_of_miss (List.mem_map_of_mem hmem) (romValue_hostCharCode hwide)

/-- Settles O56: the examples are assembled, and a quoted character is one of the spellings of a unit. -/
theorem assemblerReadsCommands : Obligations.AssemblerReadsCommands := by
  refine ⟨by decide, by decide, rfl, by decide, rfl, by decide, rfl, by decide, rfl, by decide, fun c hc => ?_⟩
  have hline : "DEC_CONSUME '".toList ++ [c, '\''] = "DEC_CONSUME ".toList ++ ['\'', c, '\''] := rfl
  rw [hline, assembleLine_decConsume]
  exact dataLine_of_dataUnit (dataUnit_quoted hc)

/-- Settles O57: both forms of the operand are read to the end of the line as the units they spell. -/
theorem assemblerExpandsStreams : Obligations.AssemblerExpandsStreams := by
  refine ⟨fun units hne h => ?_, fun text h => ?_, fun bytes => ⟨rfl, rfl⟩⟩
  · obtain ⟨unit, units, rfl⟩ := List.exists_cons_of_ne_nil hne
    rw [assembleLine_encStream, ← listText, skipBlanks_listText (List.forall_mem_cons.mp h).1]
    exact streamLine_of_streamUnits (streamUnits_listText hne h)
  · intro codes
    have hread : ∀ unitsAllowed, streamUnits unitsAllowed ('"' :: (text ++ ['"'])) = .ok (codes, []) :=
      fun _ => quotedText_append text h
    exact ⟨(assembleLine_encStream ('"' :: (text ++ ['"']))).trans (streamLine_of_streamUnits (hread true)),
      (assembleLine_decStream ('"' :: (text ++ ['"']))).trans (streamLine_of_streamUnits (hread false))⟩

end Sys2Proof.Machine
end
